-- ==== Sys2Proof/Word.lean ====
section
/-! DEFINITION. The words of the block: a bit, a byte, a 14-bit program word and a 16-bit value (rules R8, R11). -/

namespace Sys2Proof

/-- One bit: a sample of DATA, or one bit of a value on the wire (R11). -/
abbrev Bit := Bool

/-- One byte of the transport or of the response buffer (R52). -/
abbrev Byte := BitVec 8

/-- A program word as a read returns it: `WORD_BITS` = 14 (R8). -/
abbrev Word14 := BitVec 14

/-- A 16-bit value: an argument of `r` or `l`, a payload, `respLen` (R8, R23). -/
abbrev Word16 := BitVec 16

end Sys2Proof
end

