-- ==== Sys2Proof/Config.lean ====
section
/-! DEFINITION. What an implementation fixes: the fixed parameters (R8), the named durations and their values (R9, R233),
the open parameters (R10) and the free value of a DATA sample (R12, D20). An `opaque` constant here has no value that a
proof could use: a claim about it holds for every value. -/

namespace Sys2Proof

/-- The names of the durations of R9. The trace carries the name; no rule depends on a value (R7, R112, R233). -/
inductive Duration where
  | tStart | tBit | tGap | tEnterA | tEnterB | tExitEdge | tEraseRow | tEraseAll | tProgInt | tProgExt
  deriving DecidableEq, Repr

/-- The values of the durations in microseconds, an ARGUMENT of whatever speaks of time (R9). The fields with a default
have the source's value; `tStart`, `tBit` and `delayUnit` are OPEN and have none. -/
structure Timing where
  tStart    : Nat
  tBit      : Nat
  delayUnit : Nat
  tEnterA   : Nat := 30000
  tEnterB   : Nat := 300
  tExitEdge : Nat := 30000
  tEraseRow : Nat := 5000
  tEraseAll : Nat := 10000
  tProgInt  : Nat := 10000
  tProgExt  : Nat := 5000
  deriving DecidableEq, Repr

/-- The value of a named duration; `T_GAP` is three delay units (R9, D24). -/
def Timing.value (t : Timing) : Duration → Nat
  | .tStart => t.tStart
  | .tBit => t.tBit
  | .tGap => 3 * t.delayUnit
  | .tEnterA => t.tEnterA
  | .tEnterB => t.tEnterB
  | .tExitEdge => t.tExitEdge
  | .tEraseRow => t.tEraseRow
  | .tEraseAll => t.tEraseAll
  | .tProgInt => t.tProgInt
  | .tProgExt => t.tProgExt

/-- How an Interactive argument of 2^16 or more is taken (R10, R183): reduced mod 2^16, or as unparsable. -/
inductive WideArg where
  | reduce
  | useDefault
  deriving DecidableEq, Repr, Inhabited

/-- The open bytes of the Interactive read listing (R10, R190). -/
structure ListFormat where
  hexUpper : Bool
  wordSep  : List Byte
  newline  : List Byte
  deriving DecidableEq, Repr, Inhabited

namespace Config

/-- `RESP_CAP` (R8): the response buffer's capacity in bytes. -/
abbrev respCap : Nat := 2048

/-- `READ_MAX` (R8): the most words one read returns. -/
abbrev readMax : Nat := 1024

/-- `CMD_BITS` (R8): the width of a target opcode. -/
abbrev cmdBits : Nat := 6

/-- `PAYLOAD_BITS` (R8): the width of a load payload on the wire. -/
abbrev payloadBits : Nat := 16

/-- `KEY_BITS` (R8): the width of the entry key. -/
abbrev keyBits : Nat := 33

/-- `READ_CYCLES` (R8): clock cycles of one word read. -/
abbrev readCycles : Nat := 16

/-- `SEND_MIN` (R8): the least bit count `send` takes. -/
abbrev sendMin : Nat := 6

/-- `SEND_MAX` (R8): the greatest bit count `send` takes. -/
abbrev sendMax : Nat := 33

/-- `WORD_MASK` (R8). -/
abbrev wordMask : Word16 := 0x3FFF

/-- `RCOUNT_DEFAULT` (R8, R182): the default of Interactive `r`. -/
abbrev rCountDefault : Word16 := 1

/-- `LVALUE_DEFAULT` (R8, R182): the default of Interactive `l`. -/
abbrev lValueDefault : Word16 := 0

/-- `WORDS_PER_LINE` (R8): words per line of the listing. -/
abbrev wordsPerLine : Nat := 16

/-- `VERSION` (R8, R167): the payload `'0' '1'`. -/
abbrev version : List Byte := [0x30, 0x31]

/-- `ENTER_KEY` (R10, D3): the fixed 33-bit key. OPEN. -/
opaque enterKey : BitVec 33

/-- `PROMPT` (R10, D15): the interactive prompt's bytes. OPEN. -/
opaque prompt : List Byte

/-- `HEX_UPPER`, `WORD_SEP` and `NEWLINE` (R10, D16). OPEN. -/
opaque listFormat : ListFormat

/-- The default of `WIDE_ARG` (R10): REDUCE. -/
def wideArgDefault : WideArg := .reduce

/-- `WIDE_ARG` (R10, D17) as the implementation sets it. OPEN: a claim about `exec` holds for both settings. The
operations that depend on it take it as an argument, and run at `wideArgDefault` too (log 7). -/
opaque wideArg : WideArg

/-- FREE VALUE (R12, D20, U2): the level DATA shows at the n-th sample for which State holds no level the target is
known to show. Nothing constrains it (log 3). -/
opaque draw : Nat → Bit

end Config

end Sys2Proof
end

