-- ==== Sys2Proof/Syntax.lean ====
section
/-! DEFINITION. The block's commands at its three encoding levels (R65): Binary bytes, target commands, and Interactive
command events. One constructor of `Instr` per row of spec/opcode_table.json. -/

namespace Sys2Proof

/-- A token or argument string of the console, as the ASCII bytes of its characters (R66, R81). -/
abbrev Token := List Byte

/-- A command event `(name, arg?)` of port CMD (R6, R81). -/
structure CmdEvent where
  name : Token
  arg  : Option Token
  deriving DecidableEq, Repr

/-- The Binary opcodes that take two argument bytes (R25, R68). -/
inductive ArgOp where
  | r
  | l
  deriving DecidableEq, Repr

/-- The command sets of the block, one constructor per row of the opcode table. -/
inductive Instr where
  /-- `p` 0x70, enter programming mode (R154). -/
  | binP
  /-- `q` 0x71, exit programming mode (R155). -/
  | binQ
  /-- `0` 0x30, reset address (R156). -/
  | binZero
  /-- `i` 0x69, increment address (R157). -/
  | binI
  /-- `c` 0x63, load configuration (R158). -/
  | binC
  /-- `r` 0x72 and its two argument bytes, read `count` words (R159, R160). -/
  | binR (count : Word16)
  /-- `l` 0x6C and its two argument bytes, load data (R159, R161). -/
  | binL (value : Word16)
  /-- `e` 0x65, erase row (R162). -/
  | binE
  /-- `a` 0x61, erase all (R163). -/
  | binA
  /-- `w` 0x77, begin internally-timed programming (R164). -/
  | binW
  /-- `b` 0x62, begin externally-timed programming (R165). -/
  | binB
  /-- `f` 0x66, end externally-timed programming (R166). -/
  | binF
  /-- `v` 0x76, report the protocol version (R167). -/
  | binV
  /-- `x` 0x78, leave Binary mode (R168). -/
  | binX
  /-- CR 0x0D, ignored (R169). -/
  | binCr
  /-- LF 0x0A, ignored (R169). -/
  | binLf
  /-- space 0x20, ignored (R169). -/
  | binSpace
  /-- any other byte (R170). -/
  | binUnrecognized (b : Byte)
  /-- code 0x00 and the zero payload (R125). -/
  | icspLoadConfig
  /-- code 0x02 and the payload of `v` (R126). -/
  | icspLoadData (v : Word16)
  /-- code 0x04 and a read frame (R127). -/
  | icspReadWord
  /-- code 0x06 (R124). -/
  | icspIncAddress
  /-- code 0x08 (R130). -/
  | icspBeginIntProg
  /-- code 0x09 (R129). -/
  | icspEraseAll
  /-- code 0x0A (R132). -/
  | icspEndExtProg
  /-- code 0x11 (R128). -/
  | icspEraseRow
  /-- code 0x16 (R123). -/
  | icspResetAddress
  /-- code 0x18 (R131). -/
  | icspBeginExtProg
  /-- the 33-bit entry key (R121). -/
  | icspEnterProgramMode
  /-- exit: no wire transfer (R122). -/
  | icspExitProgramMode
  /-- event `p` (R184). -/
  | intP
  /-- event `q` (R185). -/
  | intQ
  /-- event `0` (R186). -/
  | intZero
  /-- event `i` (R187). -/
  | intI
  /-- event `c` (R188). -/
  | intC
  /-- event `r [count]` (R189). -/
  | intR (arg : Option Token)
  /-- event `l [value]` (R191). -/
  | intL (arg : Option Token)
  /-- event `e` (R192). -/
  | intE
  /-- event `a` (R193). -/
  | intA
  /-- event `w` (R194). -/
  | intW
  /-- event `b` (R195). -/
  | intB
  /-- event `f` (R196). -/
  | intF
  /-- event `.` (R197). -/
  | intDot
  deriving DecidableEq, Repr

/-- The command a Binary opcode with arguments becomes once its argument is there (R160, R161). -/
def ArgOp.instr : ArgOp → Word16 → Instr
  | .r, arg => .binR arg
  | .l, arg => .binL arg

end Sys2Proof
end

