-- ==== Sys2Proof/WellFormed.lean ====
section
/-! DEFINITION. Which terms of `Instr` an encoding can give. Two constructors have a check; every other term is well
formed. Well-formedness is about the ENCODING: exec has a meaning for ill-formed terms too. -/

namespace Sys2Proof

/-- The seventeen bytes that have a row of their own in R74. -/
def recognizedBytes : List Byte :=
  [0x70, 0x71, 0x30, 0x69, 0x63, 0x72, 0x6C, 0x65, 0x61, 0x77, 0x62, 0x66, 0x76, 0x78, 0x0D, 0x0A, 0x20]

/-- `binUnrecognized` carries one of the other 239 bytes (R74), and `icspLoadData` a value that its wire word carries
whole: bit 15 is not sent (R77, R126; log 15). -/
def Instr.wf : Instr → Bool
  | .binUnrecognized b => !recognizedBytes.contains b
  | .icspLoadData v => !v.getLsbD 15
  | .binP | .binQ | .binZero | .binI | .binC | .binR _ | .binL _ | .binE | .binA | .binW | .binB | .binF | .binV
  | .binX | .binCr | .binLf | .binSpace => true
  | .icspLoadConfig | .icspReadWord | .icspIncAddress | .icspBeginIntProg | .icspEraseAll | .icspEndExtProg
  | .icspEraseRow | .icspResetAddress | .icspBeginExtProg | .icspEnterProgramMode | .icspExitProgramMode => true
  | .intP | .intQ | .intZero | .intI | .intC | .intR _ | .intL _ | .intE | .intA | .intW | .intB | .intF
  | .intDot => true

end Sys2Proof
end

