-- ==== Sys2Proof/Decode.lean ====
section
/-! DEFINITION. The decoders of the three encoding levels (R65), total and rejecting by name, the encoder written from
the same tables, and the table-word decoder the host reads. -/

namespace Sys2Proof

/-! ### Byte order and bit order -/

/-- `lo8(w) = w[7:0]` (R11). -/
def lo8 (w : Word16) : Byte := w.extractLsb' 0 8

/-- `hi8(w) = w[15:8]` (R11). -/
def hi8 (w : Word16) : Byte := w.extractLsb' 8 8

/-- `zext_16(lo) | (zext_16(hi) << 8)`: the little-endian assembly of R47 and R69. -/
def le16 (lo hi : Byte) : Word16 := lo.setWidth 16 ||| (hi.setWidth 16 <<< 8)

/-- The bits of a value in wire order, least significant first (R49, R105). -/
def wireBits {n : Nat} (v : BitVec n) : List Bit := (List.range n).map v.getLsbD

/-- The number whose bits, least significant first, are given (R49). -/
def natOfBits : List Bit → Nat
  | [] => 0
  | b :: bs => b.toNat + 2 * natOfBits bs

/-- Bits in wire order as a value of width `n`. -/
def ofWireBits (n : Nat) (bs : List Bit) : BitVec n := BitVec.ofNat n (natOfBits bs)

/-! ### Errors -/

/-- Why a decoder gives no instruction. -/
inductive DecodeError where
  /-- the byte sequence ends inside a command (R68, R159): `have` bytes are there -/
  | incomplete (have_ : Nat)
  /-- bytes stand after the command -/
  | trailing (rest : List Byte)
  /-- a command event whose name is not in the table: no effect on the block (R198) -/
  | unknownName (name : Token)
  /-- one of the 54 codes that are never sent (R75) -/
  | unusedCode (code : BitVec 6)
  /-- a transfer whose payload no target command has (R77, R78) -/
  | badPayload (bits : List Bit)
  /-- a 33-bit transfer that is not the entry key (R79) -/
  | wrongKey
  deriving DecidableEq, Repr

/-! ### Host byte level (R67-R70, R74) -/

/-- What the first byte of a Binary command says: the whole command, or an opcode with two argument bytes (R70). -/
inductive FirstByte where
  | whole (i : Instr)
  | args (op : ArgOp)
  deriving DecidableEq, Repr

/-- The rows of R74 with the codes of R66. -/
def binaryRows : List (Byte × FirstByte) :=
  [(0x70, .whole .binP), (0x71, .whole .binQ), (0x30, .whole .binZero), (0x69, .whole .binI),
   (0x63, .whole .binC), (0x72, .args .r), (0x6C, .args .l), (0x65, .whole .binE),
   (0x61, .whole .binA), (0x77, .whole .binW), (0x62, .whole .binB), (0x66, .whole .binF),
   (0x76, .whole .binV), (0x78, .whole .binX), (0x0D, .whole .binCr), (0x0A, .whole .binLf),
   (0x20, .whole .binSpace)]

/-- The decoding of a byte taken in `pstate = IDLE`: a row of R74, or unrecognized (R170). -/
def decodeFirst (b : Byte) : FirstByte :=
  (binaryRows.lookup b).getD (.whole (.binUnrecognized b))

/-- Binary decoding of a byte sequence: the first command and the bytes after it (R70). -/
def decodeBytes : List Byte → Except DecodeError (Instr × List Byte)
  | [] => .error (.incomplete 0)
  | b :: rest =>
    match decodeFirst b with
    | .whole i => .ok (i, rest)
    | .args op =>
      match rest with
      | lo :: hi :: rest' => .ok (op.instr (le16 lo hi), rest')
      | few => .error (.incomplete (few.length + 1))

/-! ### Command-event level (R81, R180, R198) -/

/-- The rows of R81 by the one character of each name; only `r` and `l` keep the argument (R198). -/
def eventRows (arg : Option Token) : List (Byte × Instr) :=
  [(0x70, .intP), (0x71, .intQ), (0x30, .intZero), (0x69, .intI), (0x63, .intC), (0x72, .intR arg), (0x6C, .intL arg),
   (0x65, .intE), (0x61, .intA), (0x77, .intW), (0x62, .intB), (0x66, .intF), (0x2E, .intDot)]

/-- Interactive decoding: the name is matched exactly (R180). -/
def decodeEvent (e : CmdEvent) : Except DecodeError Instr :=
  match e.name with
  | [c] =>
    match (eventRows e.arg).lookup c with
    | some i => .ok i
    | none => .error (.unknownName e.name)
  | name => .error (.unknownName name)

/-! ### Wire level (R75-R80) -/

/-- The target commands that are a code alone; for `icspReadWord` the read frame follows, which the block does not
send (R80). -/
def plainCodes : List (BitVec 6 × Instr) :=
  [(0x04, .icspReadWord), (0x06, .icspIncAddress), (0x08, .icspBeginIntProg), (0x09, .icspEraseAll),
   (0x0A, .icspEndExtProg), (0x11, .icspEraseRow), (0x16, .icspResetAddress), (0x18, .icspBeginExtProg)]

/-- A target command by its code and the payload bits sent after it (R75, R77, R78). -/
def decodeCommand (code : BitVec 6) (payload : List Bit) : Except DecodeError Instr :=
  if code = 0x00 then
    if payload = wireBits (0 : Word16) then .ok .icspLoadConfig else .error (.badPayload payload)
  else if code = 0x02 then
    if payload.length = Config.payloadBits ∧ payload.head? = some false then
      .ok (.icspLoadData (ofWireBits Config.payloadBits payload >>> 1))
    else .error (.badPayload payload)
  else
    match plainCodes.lookup code with
    | some i => if payload = [] then .ok i else .error (.badPayload payload)
    | none => .error (.unusedCode code)

/-- Wire decoding of the bits the block drives on DATA, in wire order: 33 bits are the entry key, else the first six
are a code. -/
def decodeWire (bits : List Bit) : Except DecodeError Instr :=
  if bits.length = Config.keyBits then
    if bits = wireBits Config.enterKey then .ok .icspEnterProgramMode else .error .wrongKey
  else if bits.length < Config.cmdBits then .error (.badPayload bits)
  else decodeCommand (ofWireBits Config.cmdBits (bits.take Config.cmdBits)) (bits.drop Config.cmdBits)

/-! ### Encoding -/

/-- The encoding of a command at its own level (R65). `noTransfer` is the format "none" of exit (R75, R122). -/
inductive Code where
  | bytes (bs : List Byte)
  | wire (bits : List Bit)
  | noTransfer
  | event (e : CmdEvent)
  deriving DecidableEq, Repr

/-- `B1` (R67). -/
def encodeB1 (b : Byte) : Code := .bytes [b]

/-- `B3` (R68). -/
def encodeB3 (b : Byte) (arg : Word16) : Code := .bytes [b, lo8 arg, hi8 arg]

/-- `W6` (R76). -/
def encodeW6 (c : BitVec 6) : Code := .wire (wireBits c)

/-- `W6` and then `W16` (R77, R78). -/
def encodeW6W16 (c : BitVec 6) (p : Word16) : Code := .wire (wireBits c ++ wireBits p)

/-- A command event whose name is one character (R81). -/
def encodeEvent (c : Byte) (arg : Option Token) : Code := .event ⟨[c], arg⟩

/-- The words of an instruction, from the tables of R66, R74, R75 and R81. -/
def encode : Instr → Code
  | .binP => encodeB1 0x70
  | .binQ => encodeB1 0x71
  | .binZero => encodeB1 0x30
  | .binI => encodeB1 0x69
  | .binC => encodeB1 0x63
  | .binR count => encodeB3 0x72 count
  | .binL value => encodeB3 0x6C value
  | .binE => encodeB1 0x65
  | .binA => encodeB1 0x61
  | .binW => encodeB1 0x77
  | .binB => encodeB1 0x62
  | .binF => encodeB1 0x66
  | .binV => encodeB1 0x76
  | .binX => encodeB1 0x78
  | .binCr => encodeB1 0x0D
  | .binLf => encodeB1 0x0A
  | .binSpace => encodeB1 0x20
  | .binUnrecognized b => encodeB1 b
  | .icspLoadConfig => encodeW6W16 0x00 0
  | .icspLoadData v => encodeW6W16 0x02 (v <<< 1)
  | .icspReadWord => encodeW6 0x04
  | .icspIncAddress => encodeW6 0x06
  | .icspBeginIntProg => encodeW6 0x08
  | .icspEraseAll => encodeW6 0x09
  | .icspEndExtProg => encodeW6 0x0A
  | .icspEraseRow => encodeW6 0x11
  | .icspResetAddress => encodeW6 0x16
  | .icspBeginExtProg => encodeW6 0x18
  | .icspEnterProgramMode => .wire (wireBits Config.enterKey)
  | .icspExitProgramMode => .noTransfer
  | .intP => encodeEvent 0x70 none
  | .intQ => encodeEvent 0x71 none
  | .intZero => encodeEvent 0x30 none
  | .intI => encodeEvent 0x69 none
  | .intC => encodeEvent 0x63 none
  | .intR arg => encodeEvent 0x72 arg
  | .intL arg => encodeEvent 0x6C arg
  | .intE => encodeEvent 0x65 none
  | .intA => encodeEvent 0x61 none
  | .intW => encodeEvent 0x77 none
  | .intB => encodeEvent 0x62 none
  | .intF => encodeEvent 0x66 none
  | .intDot => encodeEvent 0x2E none

/-- Decoding at the level a code belongs to; a byte code is one command and nothing after it. -/
def decode : Code → Except DecodeError Instr
  | .bytes bs =>
    match decodeBytes bs with
    | .ok (i, []) => .ok i
    | .ok (_, rest) => .error (.trailing rest)
    | .error e => .error e
  | .wire bits => decodeWire bits
  | .noTransfer => .ok .icspExitProgramMode
  | .event e => decodeEvent e

/-! ### The host's question: a word as the opcode table numbers it -/

/-- A target code as the table's number; an operand word the table gives no bits is zero. -/
def decodeCodeWord (w : Nat) : Option Instr :=
  if w < 64 then
    let code := BitVec.ofNat Config.cmdBits w
    let payload := if code = 0x00 ∨ code = 0x02 then wireBits (0 : Word16) else []
    (decodeWire (wireBits code ++ payload)).toOption
  else none

/-- A word of the opcode table. The table's rows stand at three levels and a number does not say which; the order tried
is in log 14: fewer than 8 bits are a target code; 33 bits and more the entry key; otherwise the bytes of `w` (first
byte lowest) go to the Binary decoder, and a single byte that is unrecognized there and is a target code stands for that
code. -/
def decodeTableWord (nbits w : Nat) : Option Instr :=
  if nbits < 8 then decodeCodeWord w
  else if Config.keyBits ≤ nbits then (decodeWire (wireBits (BitVec.ofNat Config.keyBits w))).toOption
  else
    match decodeBytes [BitVec.ofNat 8 w, BitVec.ofNat 8 (w / 256), BitVec.ofNat 8 (w / 65536)] with
    | .ok (.binUnrecognized b, _) =>
      if nbits = 8 then (decodeCodeWord w).or (some (.binUnrecognized b)) else some (.binUnrecognized b)
    | .ok (i, _) => some i
    | .error _ => none

end Sys2Proof
end

