-- ==== Sys2Proof/Machine/State.lean ====
section
/-! DEFINITION. The state of the block (R20), the ports' contents and the observation (R6, R7), the reasons a step can
stop (R203), and the state right after reset (R220). -/

namespace Sys2Proof.Machine

/-- The dispatcher mode (R21). -/
inductive Mode where
  | interactive
  | binary
  deriving DecidableEq, Repr

/-- The state of Binary-mode argument collection (R25). -/
inductive PState where
  | idle
  | arg1 (op : ArgOp)
  | arg2 (op : ArgOp) (lo : Byte)
  deriving DecidableEq, Repr

/-- The pins (R6, R211). -/
inductive Pin where
  | clock | data | pgmEn | led
  deriving DecidableEq, Repr

/-- The direction of a bidirectional pin (R6). -/
inductive Dir where
  | out | inp
  deriving DecidableEq, Repr

/-- The level of a pin (R6). -/
inductive Level where
  | high | low
  deriving DecidableEq, Repr

/-- The events the block emits (R7). The reply bytes and the prompt are `tx`, the listing is `out` (log 13). -/
inductive Event where
  | dir (p : Pin) (d : Dir)
  | lvl (p : Pin) (l : Level)
  | smp (b : Bit)
  | wait (t : Duration)
  | tx (b : Byte)
  | out (b : Byte)
  deriving DecidableEq, Repr

/-- The response buffer: the bytes written since reset, addresses strictly rising. An address that is not listed has
never been written and has no value (R24, D12). -/
abbrev Memory := List Host.Cell

/-- The state of the block. The first eleven fields are the spec's tuple (R20). The last five are the model's own: what
waits at the input ports, and what the block has emitted (R6, R7; logs 1, 2 and 3). -/
structure State where
  /-- the dispatcher mode (R21) -/
  mode        : Mode
  /-- whether the device is in programming mode (R22) -/
  programMode : Bool
  /-- `responseLength : uint16` (R23) -/
  respLen     : Word16
  /-- the response buffer (R24) -/
  respBuf     : Memory
  /-- argument collection (R25) -/
  pstate      : PState
  /-- direction of CLOCK (R26) -/
  dirCLK      : Dir
  /-- direction of DATA (R26) -/
  dirDATA     : Dir
  /-- level last driven on CLOCK (R26) -/
  lvlCLK      : Level
  /-- level last driven on DATA (R26) -/
  lvlDATA     : Level
  /-- level of PGM_EN, active low (R26) -/
  lvlPGM_EN   : Level
  /-- level of the LED, which no rule drives (R26, D14) -/
  lvlLED      : Level
  /-- RX bytes that wait, oldest first -/
  rx          : List Byte
  /-- CMD events that wait, oldest first -/
  cmd         : List CmdEvent
  /-- the levels the target is known to show at the next samples, oldest first -/
  smp         : List Bit
  /-- how many samples were taken from the free value `Config.draw` -/
  drawn       : Nat
  /-- every event emitted since reset, oldest first -/
  trace       : List Event
  deriving DecidableEq, Repr

/-- Why the machine stops: exactly the three fault reasons of R203. -/
inductive Fault where
  /-- raised by `send` with a count outside 6..33 (R103); SAFE: no command passes such a count (R101) -/
  | engineSendWidth (n : Nat)
  /-- raised by `readBits` with another count than 16 (R106); SAFE: no command passes such a count (R101) -/
  | engineReadWidth (n : Nat)
  /-- raised by a read of a byte of the response buffer never written since reset (R24); SAFE: no command reads one -/
  | unwrittenRespBuf (a : Nat)
  deriving DecidableEq, Repr

/-- What has no meaning in the model. -/
inductive Refusal where
  /-- raised by an arm of `exec` for an instruction that has no meaning yet; SAFE; no arm raises it -/
  | notModelled (mnemonic : String)
  deriving DecidableEq, Repr

/-- The machine right after reset (R20, R220). The levels of CLOCK, DATA and LED are unspecified there: LOW is a DESIGN
CHOICE (logs 5 and 6). The directions and PGM_EN are the spec's decision D13. -/
def State.reset : State where
  mode        := .interactive
  programMode := false
  respLen     := 0
  respBuf     := []
  pstate      := .idle
  dirCLK      := .inp
  dirDATA     := .inp
  lvlCLK      := .low
  lvlDATA     := .low
  lvlPGM_EN   := .high
  lvlLED      := .low
  rx          := []
  cmd         := []
  smp         := []
  drawn       := 0
  trace       := []

end Sys2Proof.Machine
end

