-- ==== Sys2Proof/Machine/Ops.lean ====
section
/-! DEFINITION. The primitives of R12 over the state: events, pins, samples, the response buffer, and how an operation
becomes the outcome of a step. The block has no exception to take and none to return from (R200, R207, R208): its one
error is the reply byte of `replyError`. -/

namespace Sys2Proof.Machine

/-! ### Events -/

/-- Append events to the observation, in order (R7, R12). Output is lossless and never waits (R61; log 12). -/
def emit (es : List Event) (s : State) : State := { s with trace := s.trace ++ es }

/-- `wait(t)` (R12): a delay has no meaning beyond its place in the order (R57). -/
def wait (t : Duration) (s : State) : State := emit [.wait t] s

/-- `tx(b)` for each byte in order (R12). -/
def tx (bs : List Byte) (s : State) : State := emit (bs.map .tx) s

/-- `out(s)` (R12): one event per byte. -/
def out (bs : List Byte) (s : State) : State := emit (bs.map .out) s

/-- The reply to an unrecognized byte, the only error there is: `?`, with no length prefix (R170, R202). -/
def replyError (s : State) : State := tx [0x3F] s

/-! ### Pins -/

/-- A bit as a level: HIGH when 1 (R12). -/
def levelOf (b : Bit) : Level := if b then .high else .low

/-- `dir(p, d)` (R12). PGM_EN and the LED are outputs for good (R6): for them there is the event and no register. -/
def dir (p : Pin) (d : Dir) (s : State) : State :=
  match p with
  | .clock => emit [.dir .clock d] { s with dirCLK := d }
  | .data => emit [.dir .data d] { s with dirDATA := d }
  | .pgmEn => emit [.dir .pgmEn d] s
  | .led => emit [.dir .led d] s

/-- `set(p, l)` (R12). It does not look at the pin's direction (R102). -/
def set (p : Pin) (l : Level) (s : State) : State :=
  match p with
  | .clock => emit [.lvl .clock l] { s with lvlCLK := l }
  | .data => emit [.lvl .data l] { s with lvlDATA := l }
  | .pgmEn => emit [.lvl .pgmEn l] { s with lvlPGM_EN := l }
  | .led => emit [.lvl .led l] { s with lvlLED := l }

/-- `b <- sample()` (R12): the level the target shows. Where the state holds the level the target is known to show it is
taken from there, else it is a free value (D20, U2; log 3). -/
def sample (s : State) : Bit × State :=
  match s.smp with
  | b :: bs => (b, emit [.smp b] { s with smp := bs })
  | [] => (Config.draw s.drawn, emit [.smp (Config.draw s.drawn)] { s with drawn := s.drawn + 1 })

/-! ### The response buffer (R24, R45) -/

/-- The byte an address holds; none where nothing was written since reset. -/
def Memory.lookup : Memory → Nat → Option Byte
  | [], _ => none
  | (k, x) :: m, a => if k = a then some x else Memory.lookup m a

/-- The memory with one byte written, its cells in rising order. -/
def Memory.insert : Memory → Nat → Byte → Memory
  | [], a, v => [(a, v)]
  | (k, x) :: m, a, v =>
    if a < k then (a, v) :: (k, x) :: m
    else if a = k then (a, v) :: m
    else (k, x) :: Memory.insert m a v

/-- The canonical form: addresses strictly rising, all inside the buffer. Every byte written is listed, since an
unlisted one has no value. -/
abbrev Memory.wf (m : Memory) : Prop :=
  m.Pairwise (fun c d => c.1 < d.1) ∧ ∀ c ∈ m, c.1 < Config.respCap

/-- `MemRead(a, 1)`: an offset is 11 bits (R45); a byte never written has no value and the read faults (R24, R203). -/
def memRead (a : BitVec 11) (s : State) : Except Fault Byte :=
  match s.respBuf.lookup a.toNat with
  | some v => .ok v
  | none => .error (.unwrittenRespBuf a.toNat)

/-- `MemWrite(a, 1, v)`. -/
def memWrite (a : BitVec 11) (v : Byte) (s : State) : State :=
  { s with respBuf := s.respBuf.insert a.toNat v }

/-- The two `MemWrite`s of a word: low byte at 2i, high byte at 2i + 1 (R46). -/
def writeWord (i : Nat) (w : Word14) (s : State) : State :=
  s |> memWrite (BitVec.ofNat 11 (2 * i)) (lo8 (w.setWidth 16))
    |> memWrite (BitVec.ofNat 11 (2 * i + 1)) (hi8 (w.setWidth 16))

/-- The word the buffer holds at index i, as the listing reads it (R190). -/
def readBufWord (i : Nat) (s : State) : Except Fault Word16 := do
  let lo ← memRead (BitVec.ofNat 11 (2 * i)) s
  let hi ← memRead (BitVec.ofNat 11 (2 * i + 1)) s
  return le16 lo hi

/-- `respLen <- 2 * n` (R133). -/
def setRespLen (n : Nat) (s : State) : State := { s with respLen := BitVec.ofNat 16 (2 * n) }

/-- `pstate <- p` (R159). -/
def setPState (p : PState) (s : State) : State := { s with pstate := p }

/-! ### Outcomes -/

/-- An operation as the outcome of a step: a model fault stops the machine (R203). -/
def finish : Except Fault State → Host.Outcome State Fault Refusal
  | .ok s => .next s
  | .error f => .fault f

end Sys2Proof.Machine
end

