-- ==== Sys2Proof/Machine/Reply.lean ====
section
/-! DEFINITION. The replies of Binary mode (R71, R72, R153) and the read listing of Interactive mode (R190). -/

namespace Sys2Proof.Machine

/-- A length prefix, little-endian (R48). -/
def txLength (n : Word16) (s : State) : State := tx [lo8 n, hi8 n] s

/-- A reply frame (R71). -/
def txFrame (payload : List Byte) (s : State) : State :=
  s |> txLength (BitVec.ofNat 16 payload.length) |> tx payload

/-- `ack()`: the zero-length frame (R153). -/
def ack (s : State) : State := txFrame [] s

/-- `k` bytes of the response buffer from offset `j` on (R160). -/
def txBuffer : (k j : Nat) → State → Except Fault State
  | 0, _, s => .ok s
  | k + 1, j, s => do
    let b ← memRead (BitVec.ofNat 11 j) s
    txBuffer k (j + 1) (tx [b] s)

/-- The DATA reply: the length `respLen` and that many bytes of the buffer (R72, R160). -/
def txResponse (s : State) : Except Fault State :=
  txBuffer s.respLen.toNat 0 (txLength s.respLen s)

/-- The character of a hex digit (R190). -/
def hexChar (upper : Bool) (d : Nat) : Byte :=
  if d < 10 then BitVec.ofNat 8 (0x30 + d)
  else if upper then BitVec.ofNat 8 (0x41 + (d - 10))
  else BitVec.ofNat 8 (0x61 + (d - 10))

/-- `hex4(w)`: four digits, most significant first, zeros kept (R190). -/
def hex4 (upper : Bool) (w : Word16) : List Byte :=
  [hexChar upper (w.toNat / 4096 % 16), hexChar upper (w.toNat / 256 % 16),
   hexChar upper (w.toNat / 16 % 16), hexChar upper (w.toNat % 16)]

/-- `k` words of the listing from index `i` on: each word and its separator, and a line break after every 16th
(R190). -/
def listWords (f : ListFormat) : (k i : Nat) → State → Except Fault State
  | 0, _, s => .ok s
  | k + 1, i, s => do
    let w ← readBufWord i s
    let s := s |> out (hex4 f.hexUpper w) |> out f.wordSep
    listWords f k (i + 1) (if (i + 1) % Config.wordsPerLine = 0 then out f.newline s else s)

/-- `listing(n)`, with a last line break where n is no multiple of 16 (R190). -/
def listing (f : ListFormat) (n : Nat) (s : State) : Except Fault State := do
  let s ← listWords f n 0 s
  return if n % Config.wordsPerLine ≠ 0 then out f.newline s else s

end Sys2Proof.Machine
end

