-- ==== Sys2Proof/Machine/Engine.lean ====
section
/-! DEFINITION. The bit-serial engine: `send` and `readBits` (R100-R112). -/

namespace Sys2Proof.Machine

/-- One clock cycle of `send` (R103). -/
def shiftCycle (b : Bit) (s : State) : State :=
  s |> set .clock .high
    |> set .data (levelOf b)
    |> wait .tBit
    |> set .clock .low
    |> wait .tBit

/-- `k` cycles of `send`, from bit `i` of the value on (R103, R105). -/
def shiftOut (value : BitVec 64) : (k i : Nat) → State → State
  | 0, _, s => s
  | k + 1, i, s => shiftOut value k (i + 1) (shiftCycle (value.getLsbD i) s)

/-- `send(value, n)` (R103): it does not check the pin directions (R102); a count outside 6..33 has no meaning
(R101). -/
def send (value : BitVec 64) (n : Nat) (s : State) : Except Fault State :=
  if n < Config.sendMin ∨ Config.sendMax < n then .error (.engineSendWidth n)
  else .ok (s |> wait .tStart |> shiftOut value n 0 |> set .data .low)

/-- One clock cycle of `readBits`: the sample enters the 16-bit window at bit 15 and the older ones move down (R106;
C1). -/
def sampleCycle (sr : Word16) (s : State) : Word16 × State :=
  let (b, s) := s |> set .clock .high |> wait .tBit |> sample
  ((sr >>> 1) ||| ((BitVec.ofBool b).setWidth 16 <<< 15), s |> set .clock .low |> wait .tBit)

/-- `k` cycles of `readBits` (R106). -/
def shiftIn : Nat → Word16 → State → Word16 × State
  | 0, sr, s => (sr, s)
  | k + 1, sr, s =>
    let (sr, s) := sampleCycle sr s
    shiftIn k sr s

/-- `readBits(n)` (R106): the start and the stop sample are dropped by the shift and the mask; another count than 16 has
no meaning (R101). -/
def readBits (n : Nat) (s : State) : Except Fault (Word14 × State) :=
  if n ≠ Config.readCycles then .error (.engineReadWidth n)
  else
    let (sr, s) := s |> dir .data .inp |> shiftIn n 0
    .ok (((sr >>> 1) &&& Config.wordMask).setWidth 14, s |> dir .data .out |> set .data .low)

end Sys2Proof.Machine
end

