-- ==== Sys2Proof/Machine/Flags.lean ====
section
/-! DEFINITION. The two status flags (R30). There is no condition code, carry or error flag. -/

namespace Sys2Proof.Machine

/-- `mode <- m` (R21). -/
def setMode (m : Mode) (s : State) : State := { s with mode := m }

/-- `programMode <- b`, whatever it was (R22). -/
def setProgramMode (b : Bool) (s : State) : State := { s with programMode := b }

/-- Prompt suppression is no register: it equals `mode = BINARY` (R21). -/
def State.promptSuppressed (s : State) : Bool := s.mode == .binary

end Sys2Proof.Machine
end

