-- ==== Sys2Proof/Machine/Sequencer.lean ====
section
/-! DEFINITION. The command sequencer: the twelve target operations and the bulk read (R120-R136). No operation looks at
`programMode` or at a pin's direction (R134), and none looks at the target but through the samples of `readWord`
(R135). -/

namespace Sys2Proof.Machine

/-- `cmd(c)` (R120). -/
def cmd (c : BitVec 6) (s : State) : Except Fault State := send (c.setWidth 64) Config.cmdBits s

/-- `cmd(c); wait(t)`: the shape of the erase and programming-cycle commands (R128-R132). -/
def cmdThenWait (c : BitVec 6) (t : Duration) (s : State) : Except Fault State := do
  let s ← cmd c s
  return wait t s

/-- Enter programming mode (R121; the order is the spec's D4 and D32). -/
def enterProgramMode (s : State) : Except Fault State := do
  let s := s |> dir .clock .out |> dir .data .out |> set .clock .low |> set .data .low |> set .pgmEn .low
  let s ← send (Config.enterKey.setWidth 64) Config.keyBits s
  return s |> wait .tEnterA |> wait .tEnterB |> setProgramMode true

/-- Exit programming mode (R122; the order is the spec's D5). -/
def exitProgramMode (s : State) : Except Fault State :=
  .ok (s |> dir .clock .inp |> dir .data .inp
         |> set .pgmEn .high |> wait .tExitEdge
         |> set .pgmEn .low |> wait .tExitEdge
         |> set .pgmEn .high |> wait .tExitEdge
         |> setProgramMode false)

/-- Reset address (R123). -/
def resetAddress (s : State) : Except Fault State := cmd 0x16 s

/-- Increment address (R124). -/
def incAddress (s : State) : Except Fault State := cmd 0x06 s

/-- Load configuration (R125). -/
def loadConfig (s : State) : Except Fault State := do
  let s ← cmd 0x00 s
  send 0 Config.payloadBits (wait .tGap s)

/-- Load data word (R126): `v` is not masked; bit 14 goes to the stop position and bit 15 is not sent. -/
def loadData (v : Word16) (s : State) : Except Fault State := do
  let s ← cmd 0x02 s
  send (v.setWidth 64 <<< 1) Config.payloadBits (wait .tGap s)

/-- Read program word (R127). -/
def readWord (s : State) : Except Fault (Word14 × State) := do
  let s ← cmd 0x04 s
  let (w, s) ← readBits Config.readCycles (wait .tGap s)
  return (w, wait .tGap s)

/-- Erase row (R128). -/
def eraseRow (s : State) : Except Fault State := cmdThenWait 0x11 .tEraseRow s

/-- Erase all (R129). -/
def eraseAll (s : State) : Except Fault State := cmdThenWait 0x09 .tEraseAll s

/-- Begin internally-timed programming (R130). -/
def beginIntProg (s : State) : Except Fault State := cmdThenWait 0x08 .tProgInt s

/-- Begin externally-timed programming (R131). -/
def beginExtProg (s : State) : Except Fault State := cmdThenWait 0x18 .tProgExt s

/-- End externally-timed programming (R132). -/
def endExtProg (s : State) : Except Fault State := cmdThenWait 0x0A .tGap s

/-- One word of the bulk read: read it, store it at index `i`, step the target's address (R133). -/
def readOneWord (i : Nat) (s : State) : Except Fault State := do
  let (w, s) ← readWord s
  incAddress (writeWord i w s)

/-- `k` words of the bulk read from index `i` on (R133). -/
def readWords : (k i : Nat) → State → Except Fault State
  | 0, _, s => .ok s
  | k + 1, i, s => do
    let s ← readOneWord i s
    readWords k (i + 1) s

/-- `min(count, READ_MAX)` (R133). -/
def clampCount (count : Word16) : Nat := min count.toNat Config.readMax

/-- `readProgramMemory(count)` (R133; C4). -/
def readProgramMemory (count : Word16) (s : State) : Except Fault State := do
  let s ← readWords (clampCount count) 0 s
  return setRespLen (clampCount count) s

end Sys2Proof.Machine
end

