-- ==== Sys2Proof/Machine/Binary.lean ====
section
/-! DEFINITION. The meanings of the Binary-mode commands (R154-R170). A command's pin events come first and its reply
last, in one step (R172). The byte or bytes of the command are already taken (Machine/Fetch.lean). -/

namespace Sys2Proof.Machine

/-- `p` 0x70 (R154). -/
def execBinP (s : State) : Host.Outcome State Fault Refusal :=
  finish do
    let s ← enterProgramMode s
    return ack s

/-- `q` 0x71 (R155). -/
def execBinQ (s : State) : Host.Outcome State Fault Refusal :=
  finish do
    let s ← exitProgramMode s
    return ack s

/-- `0` 0x30 (R156). -/
def execBinZero (s : State) : Host.Outcome State Fault Refusal :=
  finish do
    let s ← resetAddress s
    return ack s

/-- `i` 0x69 (R157). -/
def execBinI (s : State) : Host.Outcome State Fault Refusal :=
  finish do
    let s ← incAddress s
    return ack s

/-- `c` 0x63 (R158). -/
def execBinC (s : State) : Host.Outcome State Fault Refusal :=
  finish do
    let s ← loadConfig s
    return ack s

/-- `r` 0x72, on its third byte: `finishRead(count)` (R160). -/
def execBinR (count : Word16) (s : State) : Host.Outcome State Fault Refusal :=
  finish do
    let s ← readProgramMemory count s
    txResponse s

/-- `l` 0x6C, on its third byte: `finishLoad(value)` (R161). -/
def execBinL (value : Word16) (s : State) : Host.Outcome State Fault Refusal :=
  finish do
    let s ← loadData value s
    return ack s

/-- `e` 0x65 (R162). -/
def execBinE (s : State) : Host.Outcome State Fault Refusal :=
  finish do
    let s ← eraseRow s
    return ack s

/-- `a` 0x61 (R163). -/
def execBinA (s : State) : Host.Outcome State Fault Refusal :=
  finish do
    let s ← eraseAll s
    return ack s

/-- `w` 0x77 (R164). -/
def execBinW (s : State) : Host.Outcome State Fault Refusal :=
  finish do
    let s ← beginIntProg s
    return ack s

/-- `b` 0x62 (R165). -/
def execBinB (s : State) : Host.Outcome State Fault Refusal :=
  finish do
    let s ← beginExtProg s
    return ack s

/-- `f` 0x66 (R166). -/
def execBinF (s : State) : Host.Outcome State Fault Refusal :=
  finish do
    let s ← endExtProg s
    return ack s

/-- `v` 0x76: the version frame; no pin event, and the response buffer is not touched (R167; D11). -/
def execBinV (s : State) : Host.Outcome State Fault Refusal :=
  .next (txFrame Config.version s)

/-- `x` 0x78: Interactive mode, and the prompt's bytes once, with no frame (R168). -/
def execBinX (s : State) : Host.Outcome State Fault Refusal :=
  .next (s |> setMode .interactive |> tx Config.prompt)

/-- CR 0x0D: ignored (R169). -/
def execBinCr (s : State) : Host.Outcome State Fault Refusal := .next s

/-- LF 0x0A: ignored (R169). -/
def execBinLf (s : State) : Host.Outcome State Fault Refusal := .next s

/-- Space 0x20: ignored (R169). -/
def execBinSpace (s : State) : Host.Outcome State Fault Refusal := .next s

/-- Any other byte: the reply `?` and nothing else; the byte is not echoed (R170, R201 E1, R202). -/
def execBinUnrecognized (_b : Byte) (s : State) : Host.Outcome State Fault Refusal :=
  .next (replyError s)

end Sys2Proof.Machine
end

