-- ==== Sys2Proof/Machine/Icsp.lean ====
section
/-! DEFINITION. The meanings of the target commands (R121-R132): each is the sequencer's operation and nothing else.
The host reaches them through the Binary and the Interactive commands (R75; log 10). -/

namespace Sys2Proof.Machine

/-- R125. -/
def execIcspLoadConfig (s : State) : Host.Outcome State Fault Refusal := finish (loadConfig s)

/-- R126. -/
def execIcspLoadData (v : Word16) (s : State) : Host.Outcome State Fault Refusal := finish (loadData v s)

/-- R127: the word goes to the caller; the state holds it only through its samples in the trace. -/
def execIcspReadWord (s : State) : Host.Outcome State Fault Refusal :=
  finish do
    let (_, s) ← readWord s
    return s

/-- R124. -/
def execIcspIncAddress (s : State) : Host.Outcome State Fault Refusal := finish (incAddress s)

/-- R130. -/
def execIcspBeginIntProg (s : State) : Host.Outcome State Fault Refusal := finish (beginIntProg s)

/-- R129. -/
def execIcspEraseAll (s : State) : Host.Outcome State Fault Refusal := finish (eraseAll s)

/-- R132. -/
def execIcspEndExtProg (s : State) : Host.Outcome State Fault Refusal := finish (endExtProg s)

/-- R128. -/
def execIcspEraseRow (s : State) : Host.Outcome State Fault Refusal := finish (eraseRow s)

/-- R123. -/
def execIcspResetAddress (s : State) : Host.Outcome State Fault Refusal := finish (resetAddress s)

/-- R131. -/
def execIcspBeginExtProg (s : State) : Host.Outcome State Fault Refusal := finish (beginExtProg s)

/-- R121. -/
def execIcspEnterProgramMode (s : State) : Host.Outcome State Fault Refusal := finish (enterProgramMode s)

/-- R122. -/
def execIcspExitProgramMode (s : State) : Host.Outcome State Fault Refusal := finish (exitProgramMode s)

end Sys2Proof.Machine
end

