-- ==== Sys2Proof/Machine/Operands.lean ====
section
/-! DEFINITION. The operand forms: the two argument bytes of Binary `r` and `l` (R47, R69), and the argument string of
Interactive `r` and `l` (R181-R183). -/

namespace Sys2Proof.Machine

/-- The argument of a Binary command from its bytes in the order received (R47, R69). -/
def binaryArg (first second : Byte) : Word16 := le16 first second

/-- The value of a decimal digit character (R181). -/
def decDigit (c : Byte) : Option Nat :=
  if 0x30 ≤ c.toNat ∧ c.toNat ≤ 0x39 then some (c.toNat - 0x30) else none

/-- The value of a hex digit character `0-9 a-f A-F` (R181). -/
def hexDigit (c : Byte) : Option Nat :=
  if 0x30 ≤ c.toNat ∧ c.toNat ≤ 0x39 then some (c.toNat - 0x30)
  else if 0x61 ≤ c.toNat ∧ c.toNat ≤ 0x66 then some (c.toNat - 0x61 + 10)
  else if 0x41 ≤ c.toNat ∧ c.toNat ≤ 0x46 then some (c.toNat - 0x41 + 10)
  else none

/-- Digits in a base, most significant first, after a value already read; none at the first character that is no
digit. -/
def parseDigits (base : Nat) (digit : Byte → Option Nat) : Nat → Token → Option Nat
  | acc, [] => some acc
  | acc, c :: cs =>
    match digit c with
    | some d => parseDigits base digit (acc * base + d) cs
    | none => none

/-- The grammar of R181: one or more decimal digits, or `0x` and one or more hex digits; anything else is
unparsable. -/
def parseArg (t : Token) : Option Nat :=
  match t with
  | [] => none
  | 0x30 :: 0x78 :: ds => if ds = [] then none else parseDigits 16 hexDigit 0 ds
  | ds => parseDigits 10 decDigit 0 ds

/-- `argValue(arg, d)` (R182, R183), with `WIDE_ARG` an argument. -/
def argValue (wide : WideArg) (arg : Option Token) (d : Word16) : Word16 :=
  match arg.bind parseArg with
  | none => d
  | some n =>
    if n < 2 ^ 16 then BitVec.ofNat 16 n
    else
      match wide with
      | .reduce => BitVec.ofNat 16 n
      | .useDefault => d

end Sys2Proof.Machine
end

