-- ==== Sys2Proof/Machine/Interactive.lean ====
section
/-! DEFINITION. The meanings of the Interactive command events (R184-R197). None but `r` writes anything to the console
(D18). The event is already taken (Machine/Fetch.lean). -/

namespace Sys2Proof.Machine

/-- `p` (R184). -/
def execIntP (s : State) : Host.Outcome State Fault Refusal := finish (enterProgramMode s)

/-- `q` (R185). -/
def execIntQ (s : State) : Host.Outcome State Fault Refusal := finish (exitProgramMode s)

/-- `0` (R186). -/
def execIntZero (s : State) : Host.Outcome State Fault Refusal := finish (resetAddress s)

/-- `i` (R187). -/
def execIntI (s : State) : Host.Outcome State Fault Refusal := finish (incAddress s)

/-- `c` (R188). -/
def execIntC (s : State) : Host.Outcome State Fault Refusal := finish (loadConfig s)

/-- Read, then print the words in hex (R189), with the open parameters it depends on as arguments (R10). -/
def interactiveRead (wide : WideArg) (f : ListFormat) (arg : Option Token) (s : State) : Except Fault State := do
  let s ← readProgramMemory (argValue wide arg Config.rCountDefault) s
  listing f (s.respLen.toNat / 2) s

/-- Load the argument's value (R191), with `WIDE_ARG` an argument (R10). -/
def interactiveLoad (wide : WideArg) (arg : Option Token) (s : State) : Except Fault State :=
  loadData (argValue wide arg Config.lValueDefault) s

/-- `r [count]` (R189). -/
def execIntR (arg : Option Token) (s : State) : Host.Outcome State Fault Refusal :=
  finish (interactiveRead Config.wideArg Config.listFormat arg s)

/-- `l [value]` (R191). -/
def execIntL (arg : Option Token) (s : State) : Host.Outcome State Fault Refusal :=
  finish (interactiveLoad Config.wideArg arg s)

/-- `e` (R192). -/
def execIntE (s : State) : Host.Outcome State Fault Refusal := finish (eraseRow s)

/-- `a` (R193). -/
def execIntA (s : State) : Host.Outcome State Fault Refusal := finish (eraseAll s)

/-- `w` (R194). -/
def execIntW (s : State) : Host.Outcome State Fault Refusal := finish (beginIntProg s)

/-- `b` (R195). -/
def execIntB (s : State) : Host.Outcome State Fault Refusal := finish (beginExtProg s)

/-- `f` (R196). -/
def execIntF (s : State) : Host.Outcome State Fault Refusal := finish (endExtProg s)

/-- `.`: Binary mode, with no reply (R197). -/
def execIntDot (s : State) : Host.Outcome State Fault Refusal := .next (setMode .binary s)

end Sys2Proof.Machine
end

