-- ==== Sys2Proof/Machine/Dispatch.lean ====
section
/-! DEFINITION. The dispatch of an instruction to its meaning, one arm per constructor (R152, R180). -/

namespace Sys2Proof.Machine

def exec (i : Instr) (s : State) : Host.Outcome State Fault Refusal :=
  match i with
  | .binP => Sys2Proof.Machine.execBinP s
  | .binQ => Sys2Proof.Machine.execBinQ s
  | .binZero => Sys2Proof.Machine.execBinZero s
  | .binI => Sys2Proof.Machine.execBinI s
  | .binC => Sys2Proof.Machine.execBinC s
  | .binR count => Sys2Proof.Machine.execBinR count s
  | .binL value => Sys2Proof.Machine.execBinL value s
  | .binE => Sys2Proof.Machine.execBinE s
  | .binA => Sys2Proof.Machine.execBinA s
  | .binW => Sys2Proof.Machine.execBinW s
  | .binB => Sys2Proof.Machine.execBinB s
  | .binF => Sys2Proof.Machine.execBinF s
  | .binV => Sys2Proof.Machine.execBinV s
  | .binX => Sys2Proof.Machine.execBinX s
  | .binCr => Sys2Proof.Machine.execBinCr s
  | .binLf => Sys2Proof.Machine.execBinLf s
  | .binSpace => Sys2Proof.Machine.execBinSpace s
  | .binUnrecognized b => Sys2Proof.Machine.execBinUnrecognized b s
  | .icspLoadConfig => Sys2Proof.Machine.execIcspLoadConfig s
  | .icspLoadData v => Sys2Proof.Machine.execIcspLoadData v s
  | .icspReadWord => Sys2Proof.Machine.execIcspReadWord s
  | .icspIncAddress => Sys2Proof.Machine.execIcspIncAddress s
  | .icspBeginIntProg => Sys2Proof.Machine.execIcspBeginIntProg s
  | .icspEraseAll => Sys2Proof.Machine.execIcspEraseAll s
  | .icspEndExtProg => Sys2Proof.Machine.execIcspEndExtProg s
  | .icspEraseRow => Sys2Proof.Machine.execIcspEraseRow s
  | .icspResetAddress => Sys2Proof.Machine.execIcspResetAddress s
  | .icspBeginExtProg => Sys2Proof.Machine.execIcspBeginExtProg s
  | .icspEnterProgramMode => Sys2Proof.Machine.execIcspEnterProgramMode s
  | .icspExitProgramMode => Sys2Proof.Machine.execIcspExitProgramMode s
  | .intP => Sys2Proof.Machine.execIntP s
  | .intQ => Sys2Proof.Machine.execIntQ s
  | .intZero => Sys2Proof.Machine.execIntZero s
  | .intI => Sys2Proof.Machine.execIntI s
  | .intC => Sys2Proof.Machine.execIntC s
  | .intR arg => Sys2Proof.Machine.execIntR arg s
  | .intL arg => Sys2Proof.Machine.execIntL arg s
  | .intE => Sys2Proof.Machine.execIntE s
  | .intA => Sys2Proof.Machine.execIntA s
  | .intW => Sys2Proof.Machine.execIntW s
  | .intB => Sys2Proof.Machine.execIntB s
  | .intF => Sys2Proof.Machine.execIntF s
  | .intDot => Sys2Proof.Machine.execIntDot s

end Sys2Proof.Machine
end

