-- ==== Sys2Proof/Machine/Fetch.lean ====
section
/-! DEFINITION. Taking one input unit (R13, R150-R152, R159, R180): which port it comes from, the argument bytes of
Binary `r` and `l`, and the actions of the agents outside the block (R5). -/

namespace Sys2Proof.Machine

/-- What one poll of the input finds. -/
inductive Fetched where
  /-- no input is pending: the block has no step (R151, R204) -/
  | hold
  /-- the input unit is taken and completes no command: a byte of an unfinished `r` or `l` (R159), or an event whose
  name is not in the table (R198) -/
  | consumed (s : State)
  /-- the input unit completes command `i`; `s` is the state with it taken -/
  | run (i : Instr) (s : State)
  deriving DecidableEq, Repr

/-- `binaryStep(b)` (R152) up to the command it runs; `s` has the byte taken. -/
def takeByte (b : Byte) (s : State) : Fetched :=
  match s.pstate with
  | .arg1 op => .consumed (setPState (.arg2 op b) s)
  | .arg2 op lo => .run (op.instr (binaryArg lo b)) (setPState .idle s)
  | .idle =>
    match decodeFirst b with
    | .args op => .consumed (setPState (.arg1 op) s)
    | .whole i => .run i s

/-- `interactiveStep(e)` (R180) up to the command it runs; `s` has the event taken. -/
def takeEvent (e : CmdEvent) (s : State) : Fetched :=
  match decodeEvent e with
  | .ok i => .run i s
  | .error _ => .consumed s

/-- One poll: `mode` alone says which port is read (R150, R206). -/
def fetch (s : State) : Fetched :=
  match s.mode with
  | .interactive =>
    match s.cmd with
    | [] => .hold
    | e :: es => takeEvent e { s with cmd := es }
  | .binary =>
    match s.rx with
    | [] => .hold
    | b :: bs => takeByte b { s with rx := bs }

/-! ### The agents outside the block (R5) -/

/-- The host sends bytes: they wait on the transport in order (R56). -/
def hostSends (bs : List Byte) (s : State) : State := { s with rx := s.rx ++ bs }

/-- In Interactive mode the console owns RX and takes its bytes, which never come back (D25, R232; log 8). -/
def consoleTakes (n : Nat) (s : State) : State :=
  match s.mode with
  | .interactive => { s with rx := s.rx.drop n }
  | .binary => s

/-- The console hands over a command event (R5, R180). -/
def consoleDelivers (e : CmdEvent) (s : State) : State := { s with cmd := s.cmd ++ [e] }

/-- The target will show these levels at the next samples (R5, R12). -/
def targetShows (bs : List Bit) (s : State) : State := { s with smp := s.smp ++ bs }

/-! ### Placing one instruction as the next input (logs 14 and 16) -/

/-- The characters of `0x` and four hex digits of a value, which R181 parses to it. -/
def hexArg (v : Word16) : Token :=
  let digit := fun d : Nat => if d < 10 then BitVec.ofNat 8 (0x30 + d) else BitVec.ofNat 8 (0x61 + (d - 10))
  [0x30, 0x78, digit (v.toNat / 4096 % 16), digit (v.toNat / 256 % 16), digit (v.toNat / 16 % 16), digit (v.toNat % 16)]

/-- The Interactive event by which the host reaches a target command (R81: "maps 1:1 to an ICSP Command Set
operation"); a single word read is reached only as `r` with count 1 (R127). -/
def eventFor : Instr → Option CmdEvent
  | .icspLoadConfig => some ⟨[0x63], none⟩
  | .icspLoadData v => some ⟨[0x6C], some (hexArg v)⟩
  | .icspReadWord => some ⟨[0x72], none⟩
  | .icspIncAddress => some ⟨[0x69], none⟩
  | .icspBeginIntProg => some ⟨[0x77], none⟩
  | .icspEraseAll => some ⟨[0x61], none⟩
  | .icspEndExtProg => some ⟨[0x66], none⟩
  | .icspEraseRow => some ⟨[0x65], none⟩
  | .icspResetAddress => some ⟨[0x30], none⟩
  | .icspBeginExtProg => some ⟨[0x62], none⟩
  | .icspEnterProgramMode => some ⟨[0x70], none⟩
  | .icspExitProgramMode => some ⟨[0x71], none⟩
  | i =>
    match encode i with
    | .event e => some e
    | _ => none

/-- `s` with instruction `i` as the very next input: a Binary byte in Binary mode; the last byte of `r` or `l` with the
first two already taken; an event in Interactive mode. -/
def placeInstr (i : Instr) (s : State) : State :=
  match encode i with
  | .bytes [b] => { s with mode := .binary, pstate := .idle, rx := b :: s.rx }
  | .bytes [b, lo, hi] =>
    match decodeFirst b with
    | .args op => { s with mode := .binary, pstate := .arg2 op lo, rx := hi :: s.rx }
    | .whole _ => s
  | _ =>
    match eventFor i with
    | some e => { s with mode := .interactive, pstate := .idle, cmd := e :: s.cmd }
    | none => s

end Sys2Proof.Machine
end

