-- ==== Sys2Proof/Machine/Step.lean ====
section
/-! DEFINITION. One step of the block (R13, R150), and the host's placing of a word. -/

namespace Sys2Proof.Machine

/-- One step: poll, and run the command that the input unit completes. Where no input is pending the poll returns with
nothing changed (R151, R204; log 4). -/
def step (s : State) : Host.Outcome State Fault Refusal :=
  match fetch s with
  | .hold => .next s
  | .consumed t => .next t
  | .run i t => exec i t

/-- `s` with the table word placed as the next input unit (log 14). -/
def State.withFetchWord (s : State) (nbits w : Nat) : State :=
  match decodeTableWord nbits w with
  | some i => placeInstr i s
  | none => s

end Sys2Proof.Machine
end

