-- ==== Sys2Proof/Machine/Observe.lean ====
section
/-! DEFINITION. Readings of the observation (R7), and the event sequences of the rules in closed form, for statements:
no meaning uses this file. -/

namespace Sys2Proof.Machine

/-! ### Readings of a trace -/

/-- Is it an event of the pin interface, a delay included (R6)? -/
def Event.isPin : Event → Bool
  | .dir _ _ | .lvl _ _ | .smp _ | .wait _ => true
  | .tx _ | .out _ => false

/-- Is it something the block does on the pins, and no sample of what the target shows? -/
def Event.isDriven : Event → Bool
  | .dir _ _ | .lvl _ _ | .wait _ => true
  | .smp _ | .tx _ | .out _ => false

/-- The bytes on the transport (R7: `Tx`). -/
def txBytes : List Event → List Byte
  | [] => []
  | .tx b :: es => b :: txBytes es
  | _ :: es => txBytes es

/-- The bytes to the console's sink (R7: `Out`). -/
def outBytes : List Event → List Byte
  | [] => []
  | .out b :: es => b :: outBytes es
  | _ :: es => outBytes es

/-- The number of clock pulses, each begun by CLOCK going HIGH (R104). -/
def clockPulses (es : List Event) : Nat := es.countP (· == .lvl .clock .high)

/-- The bits the block drives on DATA during its clock pulses, in order (R105): the level set right after CLOCK goes
HIGH. The pulses of a read frame drive none (R80). -/
def pulsedBits : List Event → List Bit
  | [] => []
  | .lvl .clock .high :: .lvl .data l :: es => (l == .high) :: pulsedBits es
  | _ :: es => pulsedBits es

/-- The least time a trace takes: the sum of its waits (R234). -/
def elapsed (t : Timing) : List Event → Nat
  | [] => 0
  | .wait d :: es => t.value d + elapsed t es
  | _ :: es => elapsed t es

/-! ### Samples to come -/

/-- The next `k` samples of DATA: the known levels first, then free values (R12, D20). -/
def nextSamples (k : Nat) (s : State) : List Bit :=
  s.smp.take k ++ (List.range (k - s.smp.length)).map fun j => Config.draw (s.drawn + j)

/-- The state with the next `k` samples taken. -/
def afterSamples (k : Nat) (s : State) : State :=
  { s with smp := s.smp.drop k, drawn := s.drawn + (k - s.smp.length) }

/-- The word of a read frame: samples 1 to 14, least significant first; the start and the stop sample are dropped
(R80, R107). -/
def wordOfSamples (bs : List Bit) : Word14 := ofWireBits 14 ((bs.drop 1).take 14)

/-- The 16 samples of the `i`-th word of a bulk read that starts in `s`. -/
def samplesAt (s : State) (i : Nat) : List Bit := nextSamples 16 (afterSamples (16 * i) s)

/-- The `i`-th word of a bulk read that starts in `s` (R133). -/
def wordAt (s : State) (i : Nat) : Word14 := wordOfSamples (samplesAt s i)

/-- The two bytes of a word, low byte first (R46). -/
def wordBytes (w : Word14) : List Byte := [lo8 (w.setWidth 16), hi8 (w.setWidth 16)]

/-! ### Event sequences of the rules -/

/-- One clock cycle of `send` (R104). -/
def sendCycle (b : Bit) : List Event :=
  [.lvl .clock .high, .lvl .data (levelOf b), .wait .tBit, .lvl .clock .low, .wait .tBit]

/-- The events of `send` for the bits in wire order (R104). -/
def sendTrace (bits : List Bit) : List Event :=
  .wait .tStart :: (bits.flatMap sendCycle ++ [.lvl .data .low])

/-- One clock cycle of `readBits` (R109). -/
def readCycle (b : Bit) : List Event :=
  [.lvl .clock .high, .wait .tBit, .smp b, .lvl .clock .low, .wait .tBit]

/-- The events of `readBits(16)` for its samples (R109). -/
def readTrace (samples : List Bit) : List Event :=
  .dir .data .inp :: (samples.flatMap readCycle ++ [.dir .data .out, .lvl .data .low])

/-- `cmd(c)` (R120). -/
def cmdTrace (c : BitVec 6) : List Event := sendTrace (wireBits c)

/-- A code, the gap, a 16-bit payload (R125, R126). -/
def loadTrace (c : BitVec 6) (p : Word16) : List Event :=
  cmdTrace c ++ .wait .tGap :: sendTrace (wireBits p)

/-- `readWord` (R127). -/
def readWordTrace (samples : List Bit) : List Event :=
  cmdTrace 0x04 ++ .wait .tGap :: (readTrace samples ++ [.wait .tGap])

/-- Enter programming mode (R121). -/
def enterTrace : List Event :=
  [.dir .clock .out, .dir .data .out, .lvl .clock .low, .lvl .data .low, .lvl .pgmEn .low]
    ++ sendTrace (wireBits Config.enterKey) ++ [.wait .tEnterA, .wait .tEnterB]

/-- Exit programming mode (R122). -/
def exitTrace : List Event :=
  [.dir .clock .inp, .dir .data .inp, .lvl .pgmEn .high, .wait .tExitEdge, .lvl .pgmEn .low, .wait .tExitEdge,
   .lvl .pgmEn .high, .wait .tExitEdge]

/-- A bulk read of `n` words that starts in `s` (R133). -/
def bulkTrace (n : Nat) (s : State) : List Event :=
  (List.range n).flatMap fun i => readWordTrace (samplesAt s i) ++ cmdTrace 0x06

/-- The ack frame as events (R153). -/
def ackTrace : List Event := [.tx 0x00, .tx 0x00]

/-- The bytes of `n` words of a bulk read that starts in `s`, as the DATA reply carries them (R160). -/
def bulkBytes (n : Nat) (s : State) : List Byte := (List.range n).flatMap fun i => wordBytes (wordAt s i)

/-- The listing of words (R190). -/
def listingBytes (f : ListFormat) (n : Nat) (word : Nat → Word16) : List Byte :=
  ((List.range n).flatMap fun i =>
    hex4 f.hexUpper (word i) ++ f.wordSep ++ if (i + 1) % 16 = 0 then f.newline else [])
  ++ if n % 16 ≠ 0 then f.newline else []

end Sys2Proof.Machine
end

