-- ==== Sys2Proof/Safety.lean ====
section
/-! DEFINITION. What counts as a safe state and a safe step: the invariant of the block between two steps, and the
situations in which it has no step (R204). -/

namespace Sys2Proof.Machine

/-- The step from `s` completes: neither a fault nor a refusal. -/
def State.Safe (s : State) : Prop := ∃ t, step s = .next t

/-- At rest: Binary mode, no command begun, no byte pending (R173, R204). -/
def State.atRest (s : State) : Prop := s.mode = .binary ∧ s.pstate = .idle ∧ s.rx = []

/-- Held: a command is begun and its next argument byte is not there (R173, R204). -/
def State.held (s : State) : Prop := s.mode = .binary ∧ s.pstate ≠ .idle ∧ s.rx = []

/-- Idle Interactive: no command event is pending (R204). -/
def State.idleInteractive (s : State) : Prop := s.mode = .interactive ∧ s.cmd = []

/-- The block has no step in exactly three situations (R204). -/
def State.hasNoStep (s : State) : Prop := s.idleInteractive ∨ s.atRest ∨ s.held

/-- What holds between two steps of every run. -/
structure State.Inv (s : State) : Prop where
  /-- the response buffer is in canonical form and inside its 2048 bytes (R24, R45) -/
  bufWf : s.respBuf.wf
  /-- `respLen` is always even (R23, C3) -/
  lenEven : s.respLen.toNat % 2 = 0
  /-- and at most 2048 (R23) -/
  lenCap : s.respLen.toNat ≤ Config.respCap
  /-- every byte below `respLen` was written (R24) -/
  written : ∀ a < s.respLen.toNat, (s.respBuf.lookup a).isSome
  /-- bits 7 and 6 of a high byte are 0 (R46) -/
  highBytes : ∀ c ∈ s.respBuf, c.1 % 2 = 1 → c.2.toNat < 64
  /-- no argument is collected in Interactive mode (R25) -/
  idle : s.mode = .interactive → s.pstate = .idle
  /-- CLOCK is owned exactly between entry and exit (R26, R209) -/
  clockOwned : s.programMode = true ↔ s.dirCLK = .out
  /-- DATA is owned at least then (R26; after an unguarded read it is an output outside, too: 95_test_vectors.md P4) -/
  dataOwned : s.programMode = true → s.dirDATA = .out
  /-- programming enable is asserted (LOW) exactly then (R26, R121, R122) -/
  enabled : s.programMode = true ↔ s.lvlPGM_EN = .low

end Sys2Proof.Machine

/-! ### Classes of commands, for statements -/

namespace Sys2Proof.Machine

/-- The commands that run `enterProgramMode` (R121, R154, R184). -/
def enterCommands : List Instr := [.icspEnterProgramMode, .binP, .intP]

/-- The commands that run `exitProgramMode` (R122, R155, R185). -/
def exitCommands : List Instr := [.icspExitProgramMode, .binQ, .intQ]

/-- The commands that have no pin event at all (R167-R170, R197). -/
def isSilent : Instr → Bool
  | .binV | .binX | .binCr | .binLf | .binSpace | .binUnrecognized _ | .intDot => true
  | .binP | .binQ | .binZero | .binI | .binC | .binR _ | .binL _ | .binE | .binA | .binW | .binB | .binF
  | .icspLoadConfig | .icspLoadData _ | .icspReadWord | .icspIncAddress | .icspBeginIntProg | .icspEraseAll
  | .icspEndExtProg | .icspEraseRow | .icspResetAddress | .icspBeginExtProg | .icspEnterProgramMode
  | .icspExitProgramMode | .intP | .intQ | .intZero | .intI | .intC | .intR _ | .intL _ | .intE | .intA | .intW
  | .intB | .intF => false

/-- The words a command reads from the target (R127, R160, R189). -/
def wordsReadBy : Instr → Nat
  | .icspReadWord => 1
  | .binR count => clampCount count
  | .intR arg => clampCount (argValue Config.wideArg arg Config.rCountDefault)
  | .binP | .binQ | .binZero | .binI | .binC | .binL _ | .binE | .binA | .binW | .binB | .binF | .binV | .binX
  | .binCr | .binLf | .binSpace | .binUnrecognized _ | .icspLoadConfig | .icspLoadData _ | .icspIncAddress
  | .icspBeginIntProg | .icspEraseAll | .icspEndExtProg | .icspEraseRow | .icspResetAddress | .icspBeginExtProg
  | .icspEnterProgramMode | .icspExitProgramMode | .intP | .intQ | .intZero | .intI | .intC | .intL _ | .intE
  | .intA | .intW | .intB | .intF | .intDot => 0

/-- The words a command stores in the response buffer, at addresses 0 to twice that number (R133, R160, R189). -/
def wordsStoredBy : Instr → Nat
  | .binR count => clampCount count
  | .intR arg => clampCount (argValue Config.wideArg arg Config.rCountDefault)
  | .binP | .binQ | .binZero | .binI | .binC | .binL _ | .binE | .binA | .binW | .binB | .binF | .binV | .binX
  | .binCr | .binLf | .binSpace | .binUnrecognized _ | .icspLoadConfig | .icspLoadData _ | .icspReadWord
  | .icspIncAddress | .icspBeginIntProg | .icspEraseAll | .icspEndExtProg | .icspEraseRow | .icspResetAddress
  | .icspBeginExtProg | .icspEnterProgramMode | .icspExitProgramMode | .intP | .intQ | .intZero | .intI | .intC
  | .intL _ | .intE | .intA | .intW | .intB | .intF | .intDot => 0

/-- Does the command write `respLen` (R23)? -/
def writesRespLen : Instr → Bool
  | .binR _ | .intR _ => true
  | .binP | .binQ | .binZero | .binI | .binC | .binL _ | .binE | .binA | .binW | .binB | .binF | .binV | .binX
  | .binCr | .binLf | .binSpace | .binUnrecognized _ | .icspLoadConfig | .icspLoadData _ | .icspReadWord
  | .icspIncAddress | .icspBeginIntProg | .icspEraseAll | .icspEndExtProg | .icspEraseRow | .icspResetAddress
  | .icspBeginExtProg | .icspEnterProgramMode | .icspExitProgramMode | .intP | .intQ | .intZero | .intI | .intC
  | .intL _ | .intE | .intA | .intW | .intB | .intF | .intDot => false

/-- Is it a command of the host byte level (R65)? -/
def isBinary : Instr → Bool
  | .binP | .binQ | .binZero | .binI | .binC | .binR _ | .binL _ | .binE | .binA | .binW | .binB | .binF | .binV
  | .binX | .binCr | .binLf | .binSpace | .binUnrecognized _ => true
  | .icspLoadConfig | .icspLoadData _ | .icspReadWord | .icspIncAddress | .icspBeginIntProg | .icspEraseAll
  | .icspEndExtProg | .icspEraseRow | .icspResetAddress | .icspBeginExtProg | .icspEnterProgramMode
  | .icspExitProgramMode | .intP | .intQ | .intZero | .intI | .intC | .intR _ | .intL _ | .intE | .intA | .intW
  | .intB | .intF | .intDot => false

/-- The recognized Binary commands that reply with a frame: all but `x` (R171). -/
def repliesWithFrame : Instr → Bool
  | .binP | .binQ | .binZero | .binI | .binC | .binR _ | .binL _ | .binE | .binA | .binW | .binB | .binF | .binV => true
  | .binX | .binCr | .binLf | .binSpace | .binUnrecognized _ | .icspLoadConfig | .icspLoadData _ | .icspReadWord
  | .icspIncAddress | .icspBeginIntProg | .icspEraseAll | .icspEndExtProg | .icspEraseRow | .icspResetAddress
  | .icspBeginExtProg | .icspEnterProgramMode | .icspExitProgramMode | .intP | .intQ | .intZero | .intI | .intC
  | .intR _ | .intL _ | .intE | .intA | .intW | .intB | .intF | .intDot => false

/-- The two states agree on everything but `programMode`, `respLen`, `respBuf` and the pins (R22, R24, R33). -/
structure AgreeButHidden (s t : State) : Prop where
  mode : s.mode = t.mode
  pstate : s.pstate = t.pstate
  rx : s.rx = t.rx
  cmd : s.cmd = t.cmd
  smp : s.smp = t.smp
  drawn : s.drawn = t.drawn
  trace : s.trace = t.trace

end Sys2Proof.Machine
end

