-- ==== Sys2Proof/Certificates/Slice0/Obligations.lean ====
section
/-! DEFINITION. The statements for the provers. Where a statement rests on a decision the spec marks as its own (D<n> of
92_eei_decisions.md) or on a choice of the model (log <n>), its docstring says so. A record update `{ s with … }` in a
conclusion says the whole frame: every field not named is as in `s`. -/

open Sys2Proof Sys2Proof.Machine

/-! ### Reset and invariants -/

/-- What reset leaves. The empty buffer that faults on a read is the spec's D12, the directions and PGM_EN its D13. -/
def Obligations.ResetLeavesTheBlockIdle : Prop :=
  State.reset.mode = .interactive ∧ State.reset.programMode = false ∧ State.reset.respLen = 0 ∧
  State.reset.pstate = .idle ∧ (∀ a, memRead a State.reset = .error (.unwrittenRespBuf a.toNat)) ∧
  State.reset.dirCLK = .inp ∧ State.reset.dirDATA = .inp ∧ State.reset.lvlPGM_EN = .high ∧ State.reset.trace = []

/-- The invariant holds at reset. That CLOCK is not owned and PGM_EN is HIGH there, as the invariant needs, is the spec's
own D13 (log 19). -/
def Obligations.ResetMeetsInvariant : Prop := State.reset.Inv

/-- Every step keeps the invariant: the buffer's canonical form, `respLen` even, at most 2048 and below it only written
bytes, high bytes below 0x40, no argument collected in Interactive mode, CLOCK owned and PGM_EN asserted exactly between
entry and exit, and DATA owned at least then (a read outside leaves DATA an output, too). The invariant is a premise. -/
def Obligations.StepKeepsInvariant : Prop := ∀ s t : State, s.Inv → step s = .next t → t.Inv

/-- No input makes a step fault or be refused, from any state: the three model faults are unreachable (R200, R203). -/
def Obligations.EveryStepCompletes : Prop := ∀ s : State, s.Safe

/-- Nothing the block has emitted is taken back. -/
def Obligations.StepOnlyAppendsEvents : Prop :=
  ∀ s t : State, step s = .next t → ∃ es, t.trace = s.trace ++ es

/-! ### Whole-machine rules -/

/-- R21: the initial mode, the two transitions of `mode` and no others, and the prompt suppressed exactly in Binary
mode. -/
def Obligations.ModeChangesOnlyByDotAndX : Prop :=
  State.reset.mode = .interactive ∧
  (∀ s : State, s.promptSuppressed = true ↔ s.mode = .binary) ∧
  ∀ s t : State, step s = .next t →
    t.mode =
      if s.mode = .interactive ∧ s.cmd.head?.map CmdEvent.name = some [0x2E] then .binary
      else if s.mode = .binary ∧ s.pstate = .idle ∧ s.rx.head? = some 0x78 then .interactive
      else s.mode

/-- R22: `programMode` is false at reset; entry writes true and exit writes false whatever it was; nothing else writes
it; and it is never read: whatever it is, a command and a step leave the same state but for `programMode` itself, so
nothing it does depends on it and no reply reports it. -/
def Obligations.ProgramModeOnlyByEnterAndExit : Prop :=
  State.reset.programMode = false ∧
  (∀ i (s t : State), exec i s = .next t →
    t.programMode = if i ∈ enterCommands then true else if i ∈ exitCommands then false else s.programMode) ∧
  (∀ i (s : State) (b : Bool), ∃ t t', exec i s = .next t ∧ exec i { s with programMode := b } = .next t' ∧
    t' = { t with programMode := t'.programMode }) ∧
  ∀ (s : State) (b : Bool), ∃ t t', step s = .next t ∧ step { s with programMode := b } = .next t' ∧
    t' = { t with programMode := t'.programMode }

/-- `respLen` is 0 at reset, a read writes twice the clamped count, and nothing else writes it (the clamped count is the
spec's C4). -/
def Obligations.RespLenOnlyByReads : Prop :=
  State.reset.respLen = 0 ∧
  ∀ i (s t : State), exec i s = .next t →
    t.respLen.toNat = if writesRespLen i then 2 * wordsStoredBy i else s.respLen.toNat

/-- R134: every operation emits the same events whatever `programMode` and the pin directions are. -/
def Obligations.NoGuardOnProgramMode : Prop :=
  ∀ i (s : State) (b : Bool) (d d' : Dir), ∃ t t', exec i s = .next t ∧
    exec i { s with programMode := b, dirCLK := d, dirDATA := d' } = .next t' ∧ t'.trace = t.trace

/-- R135: a command takes 16 samples for each word it reads and no other, and completes whatever they are; one that
reads no word does not look at the target at all; and what a command does on the pins, and where it waits, is the same
whatever the samples are. -/
def Obligations.OnlyReadsLookAtTheTarget : Prop :=
  (∀ i (s : State), ∃ t, exec i s = .next t ∧ t.smp = (afterSamples (16 * wordsReadBy i) s).smp ∧
    t.drawn = (afterSamples (16 * wordsReadBy i) s).drawn) ∧
  (∀ i (s : State) (bs : List Bit) (d : Nat), wordsReadBy i = 0 → ∃ t, exec i s = .next t ∧
    exec i { s with smp := bs, drawn := d } = .next { t with smp := bs, drawn := d }) ∧
  ∀ i (s : State) (bs : List Bit) (d : Nat), ∃ t t' es es', exec i s = .next t ∧
    exec i { s with smp := bs, drawn := d } = .next t' ∧ t.trace = s.trace ++ es ∧ t'.trace = s.trace ++ es' ∧
    es.filter Event.isDriven = es'.filter Event.isDriven

/-- `programMode`, `respLen`, the response buffer and the pins never show: two runs of any length that start from states
that agree on everything else end so, with the same events (R22, R24, R33). -/
def Obligations.HiddenStateNeverShows : Prop :=
  ∀ (k : Nat) (s t : State), AgreeButHidden s t →
    ∃ s' t' : State, Sys2Proof.core.run k s = .next s' ∧ Sys2Proof.core.run k t = .next t' ∧ AgreeButHidden s' t'

/-! ### Frames -/

/-- The registers a command leaves alone. No command writes the argument state, the LED or the input queues. -/
def Obligations.RegisterFrame : Prop :=
  ∀ i (s t : State), exec i s = .next t →
    t.pstate = s.pstate ∧ t.lvlLED = s.lvlLED ∧ t.rx = s.rx ∧ t.cmd = s.cmd ∧
    (i ≠ .binX → i ≠ .intDot → t.mode = s.mode) ∧
    (i ∉ enterCommands → i ∉ exitCommands →
      t.programMode = s.programMode ∧ t.dirCLK = s.dirCLK ∧ t.lvlPGM_EN = s.lvlPGM_EN) ∧
    (i ∉ enterCommands → i ∉ exitCommands → wordsReadBy i = 0 → t.dirDATA = s.dirDATA) ∧
    ((isSilent i ∨ i ∈ exitCommands) → t.lvlCLK = s.lvlCLK ∧ t.lvlDATA = s.lvlDATA) ∧
    (writesRespLen i = false → t.respLen = s.respLen) ∧
    (wordsReadBy i = 0 → t.smp = s.smp ∧ t.drawn = s.drawn)

/-- Every byte of the response buffer reads as before but the bytes a read stores, which are addresses 0 up to twice the
words it reads; a command that is no bulk read stores none (R24, R133). -/
def Obligations.MemoryFrame : Prop :=
  ∀ i (s t : State), exec i s = .next t →
    ∀ a : BitVec 11, 2 * wordsStoredBy i ≤ a.toNat → memRead a t = memRead a s

/-- R24, R45, R203 with the spec's D12: a byte of the buffer reads as it was last written, a write changes no other byte,
and a byte that was never written has no value. -/
def Obligations.BufferReadsWhatWasWritten : Prop :=
  ∀ (s : State) (a : BitVec 11) (v : Byte),
    memRead a (memWrite a v s) = .ok v ∧
    (∀ b : BitVec 11, b ≠ a → memRead b (memWrite a v s) = memRead b s) ∧
    (s.respBuf.lookup a.toNat = none → memRead a s = .error (.unwrittenRespBuf a.toNat)) ∧
    memWrite a v s = { s with respBuf := (memWrite a v s).respBuf }

/-! ### Target commands -/

/-- R123, R124: reset address and increment address are their code alone, in every state, with CLOCK and DATA left LOW
and no other register written; an increment also follows every word of a bulk read. The host's bytes for them are `0` and
`i`. -/
def Obligations.AddressCommandsSendTheirCode : Prop :=
  ∀ s : State,
    exec .icspResetAddress s = .next { s with
      lvlCLK := .low, lvlDATA := .low, trace := s.trace ++ cmdTrace 0x16 } ∧
    exec .icspIncAddress s = .next { s with
      lvlCLK := .low, lvlDATA := .low, trace := s.trace ++ cmdTrace 0x06 } ∧
    encode .icspResetAddress = .wire [false, true, true, false, true, false] ∧
    encode .icspIncAddress = .wire [false, true, true, false, false, false] ∧
    pulsedBits (cmdTrace 0x16) = [false, true, true, false, true, false] ∧
    pulsedBits (cmdTrace 0x06) = [false, true, true, false, false, false] ∧
    (cmdTrace 0x16).length = 32 ∧ (cmdTrace 0x06).length = 32 ∧
    decodeFirst 0x30 = .whole .binZero ∧ decodeFirst 0x69 = .whole .binI ∧
    ∀ i : Nat, ∃ w t u, readWord s = .ok (w, t) ∧ incAddress (writeWord i w t) = .ok u ∧ readOneWord i s = .ok u

/-- R128-R132: the erase and programming-cycle commands are their code and then their settle wait, in every state, with
no register written but the pins' levels; the host's bytes for them; and the waits' values by default, in microseconds. -/
def Obligations.TimedCommandsSendCodeThenWait : Prop :=
  (∀ row ∈ ([(.icspEraseRow, 0x11, .tEraseRow), (.icspEraseAll, 0x09, .tEraseAll), (.icspBeginIntProg, 0x08, .tProgInt),
      (.icspBeginExtProg, 0x18, .tProgExt), (.icspEndExtProg, 0x0A, .tGap)] : List (Instr × BitVec 6 × Duration)),
    encode row.1 = .wire (wireBits row.2.1) ∧ pulsedBits (cmdTrace row.2.1 ++ [Event.wait row.2.2]) = wireBits row.2.1 ∧
    (cmdTrace row.2.1 ++ [Event.wait row.2.2]).length = 33 ∧
    ∀ s : State, exec row.1 s = .next { s with
      lvlCLK := .low, lvlDATA := .low, trace := s.trace ++ (cmdTrace row.2.1 ++ [Event.wait row.2.2]) }) ∧
  [0x65, 0x61, 0x77, 0x62, 0x66].map decodeFirst = [.whole .binE, .whole .binA, .whole .binW, .whole .binB, .whole .binF] ∧
  ∀ start bit unit : Nat,
    let c : Timing := { tStart := start, tBit := bit, delayUnit := unit }
    c.value .tEraseRow = 5000 ∧ c.value .tEraseAll = 10000 ∧ c.value .tProgInt = 10000 ∧ c.value .tProgExt = 5000 ∧
    c.value .tGap = 3 * unit

/-- R125: load configuration is code 0x00, the gap, and 16 cycles of DATA LOW. -/
def Obligations.LoadConfigSendsZeroPayload : Prop :=
  (∀ s : State, exec .icspLoadConfig s = .next { s with
    lvlCLK := .low, lvlDATA := .low, trace := s.trace ++ loadTrace 0x00 0 }) ∧
  encode .icspLoadConfig = .wire (List.replicate 22 false) ∧ decodeFirst 0x63 = .whole .binC ∧
  pulsedBits (loadTrace 0x00 0) = List.replicate 22 false ∧ (loadTrace 0x00 0).length = 115

/-- R126 and its derived corner cases: load data is code 0x02, the gap, and a start bit 0, then bits 0 to 14 of the
value; bit 14 stands in the stop position, and bit 15 is not sent. -/
def Obligations.LoadDataSendsShiftedValue : Prop :=
  ∀ (v : Word16) (s : State),
    exec (.icspLoadData v) s = .next { s with
      lvlCLK := .low, lvlDATA := .low, trace := s.trace ++ loadTrace 0x02 (v <<< 1) } ∧
    (pulsedBits (loadTrace 0x02 (v <<< 1))).drop 6 = false :: (List.range 15).map v.getLsbD ∧
    exec (.icspLoadData (v ^^^ 0x8000)) s = exec (.icspLoadData v) s

/-- R121, R122, with the order of the spec's D4, D5 and D32: what entry and exit leave, and what they emit. -/
def Obligations.EnterAndExitOwnThePins : Prop :=
  ∀ s : State,
    exec .icspEnterProgramMode s = .next { s with
      programMode := true, dirCLK := .out, dirDATA := .out, lvlCLK := .low, lvlDATA := .low, lvlPGM_EN := .low,
      trace := s.trace ++ enterTrace } ∧
    exec .icspExitProgramMode s = .next { s with
      programMode := false, dirCLK := .inp, dirDATA := .inp, lvlPGM_EN := .high, trace := s.trace ++ exitTrace } ∧
    enterTrace.length = 174 ∧ exitTrace.length = 8

/-- R127, with readBits of the spec's C1, D6 and D7: a single read emits its events with its 16 samples, leaves DATA an
output at LOW, and returns the word of samples 1 to 14; the word goes to the caller and into no register. -/
def Obligations.ReadWordReturnsTheFrame : Prop :=
  ∀ s : State, ∃ t w,
    readWord s = .ok (w, t) ∧ exec .icspReadWord s = .next t ∧
    t = { afterSamples 16 s with
      dirDATA := .out, lvlCLK := .low, lvlDATA := .low, trace := s.trace ++ readWordTrace (nextSamples 16 s) } ∧
    (∀ j < 14, w.getLsbD j = (nextSamples 16 s).getD (j + 1) false) ∧
    (readWordTrace (nextSamples 16 s)).length = 117

/-! ### Binary commands -/

/-- R153-R158, R162-R166: the ten one-byte commands that run a target command run it, and then send the ack frame; the
target command sends no reply byte of its own. -/
def Obligations.AckCommandsRunThenAck : Prop :=
  (∀ row ∈ ([(0x70, .binP, .icspEnterProgramMode), (0x71, .binQ, .icspExitProgramMode),
      (0x30, .binZero, .icspResetAddress), (0x69, .binI, .icspIncAddress), (0x63, .binC, .icspLoadConfig),
      (0x65, .binE, .icspEraseRow), (0x61, .binA, .icspEraseAll), (0x77, .binW, .icspBeginIntProg),
      (0x62, .binB, .icspBeginExtProg), (0x66, .binF, .icspEndExtProg)] : List (Byte × Instr × Instr)),
    decodeFirst row.1 = .whole row.2.1 ∧
    ∀ s : State, ∃ t es, exec row.2.2 s = .next t ∧ t.trace = s.trace ++ es ∧ txBytes es = [] ∧
      exec row.2.1 s = .next { t with trace := t.trace ++ [.tx 0x00, .tx 0x00] }) ∧
  (∀ s t : State, exec .binP s = .next t → t.programMode = true) ∧
  (∀ s t : State, exec .binQ s = .next t → t.programMode = false) ∧
  (∀ s : State, ack s = { s with trace := s.trace ++ [.tx 0x00, .tx 0x00] }) ∧
  decodeFirst 0x00 = .whole (.binUnrecognized 0x00)

/-- R161: Binary `l` collects two bytes with no reply, then loads the value they make and acks. -/
def Obligations.BinaryLoadRunsOnThirdByte : Prop :=
  (∀ (value : Word16) (s : State), ∃ t, exec (.icspLoadData value) s = .next t ∧
    exec (.binL value) s = .next { t with trace := t.trace ++ [.tx 0x00, .tx 0x00] }) ∧
  (∀ (s : State) (rest : List Byte), s.mode = .binary → s.pstate = .idle → s.rx = 0x6C :: rest →
    step s = .next { s with rx := rest, pstate := .arg1 .l }) ∧
  (∀ (s : State) (lo : Byte) (rest : List Byte), s.mode = .binary → s.pstate = .arg1 .l → s.rx = lo :: rest →
    step s = .next { s with rx := rest, pstate := .arg2 .l lo }) ∧
  ∀ (s : State) (lo hi : Byte) (rest : List Byte), s.mode = .binary → s.pstate = .arg2 .l lo → s.rx = hi :: rest →
    step s = exec (.binL (le16 lo hi)) { s with rx := rest, pstate := .idle }

/-- R160, with readProgramMemory of R133 (C4) and readBits of C1, D6, D7: Binary `r` reads min(count, 1024) words, each
followed by an increment; stores them low byte first; leaves every other byte of the buffer; and replies with the length
and exactly those bytes. -/
def Obligations.BinaryReadRepliesWithTheWords : Prop :=
  ∀ (count : Word16) (s : State),
    let n := min count.toNat 1024
    let len : Word16 := BitVec.ofNat 16 (2 * n)
    ∃ t, exec (.binR count) s = .next t ∧
      t.trace = s.trace ++ bulkTrace n s ++ ([lo8 len, hi8 len] ++ bulkBytes n s).map .tx ∧
      t.respLen.toNat = 2 * n ∧ (bulkBytes n s).length = 2 * n ∧
      (∀ i < n, t.respBuf.lookup (2 * i) = some (lo8 ((wordAt s i).setWidth 16)) ∧
        t.respBuf.lookup (2 * i + 1) = some (hi8 ((wordAt s i).setWidth 16)) ∧
        (hi8 ((wordAt s i).setWidth 16)).toNat ≤ 0x3F) ∧
      (∀ a, 2 * n ≤ a → t.respBuf.lookup a = s.respBuf.lookup a) ∧
      t.smp = (afterSamples (16 * n) s).smp ∧ t.drawn = (afterSamples (16 * n) s).drawn ∧
      (n = 0 → t.dirDATA = s.dirDATA ∧ t.lvlCLK = s.lvlCLK ∧ t.lvlDATA = s.lvlDATA) ∧
      (n ≠ 0 → t.dirDATA = .out ∧ t.lvlCLK = .low ∧ t.lvlDATA = .low) ∧
      t.mode = s.mode ∧ t.programMode = s.programMode ∧ t.pstate = s.pstate ∧ t.dirCLK = s.dirCLK ∧
      t.lvlPGM_EN = s.lvlPGM_EN ∧ t.lvlLED = s.lvlLED ∧ t.rx = s.rx ∧ t.cmd = s.cmd

/-- R167, with the spec's D11 (the response buffer is not touched): `v` replies 02 00 30 31 and does nothing else. -/
def Obligations.VersionReplyIsConstant : Prop :=
  ∀ s : State, exec .binV s = .next { s with trace := s.trace ++ [.tx 0x02, .tx 0x00, .tx 0x30, .tx 0x31] }

/-- R168, with the open prompt of D15: `x` goes to Interactive mode, emits the prompt's bytes once and nothing else, and
leaves `programMode` alone. -/
def Obligations.LeaveBinaryEmitsPrompt : Prop :=
  ∀ s : State, exec .binX s = .next { s with
    mode := .interactive, trace := s.trace ++ Config.prompt.map .tx }

/-- R169: CR, LF and space do nothing between commands, and are data inside one. -/
def Obligations.IgnoredBytesDoNothing : Prop :=
  (∀ s : State, exec .binCr s = .next s ∧ exec .binLf s = .next s ∧ exec .binSpace s = .next s) ∧
  ∀ b ∈ ([0x0D, 0x0A, 0x20] : List Byte), ∀ (s : State) (rest : List Byte), s.mode = .binary → s.rx = b :: rest →
    (s.pstate = .idle → step s = .next { s with rx := rest }) ∧
    (∀ op, s.pstate = .arg1 op → step s = .next { s with rx := rest, pstate := .arg2 op b }) ∧
    ∀ op lo, s.pstate = .arg2 op lo → step s = exec (op.instr (le16 lo b)) { s with rx := rest, pstate := .idle }

/-- R170: every other byte gets the one byte `?`, with no length, and changes nothing; `.` and the upper-case letters are
among them. -/
def Obligations.UnrecognizedByteGetsQuestionMark : Prop :=
  (∀ (b : Byte) (s : State), exec (.binUnrecognized b) s = .next { s with trace := s.trace ++ [.tx 0x3F] }) ∧
  (∀ b : Byte, b ∉ recognizedBytes → decodeFirst b = .whole (.binUnrecognized b)) ∧
  (0x2E : Byte) ∉ recognizedBytes ∧ ∀ b : Byte, 0x41 ≤ b.toNat → b.toNat ≤ 0x5A → b ∉ recognizedBytes

/-- In one step every pin event comes before the first reply byte, and nothing goes to the console (the spec's D10). -/
def Obligations.RepliesFollowPinEvents : Prop :=
  ∀ i (s t : State), isBinary i → exec i s = .next t →
    ∃ (pins : List Event) (reply : List Byte), t.trace = s.trace ++ pins ++ reply.map .tx ∧ ∀ e ∈ pins, e.isPin

/-- Every recognized Binary command but `x` replies with exactly one frame: a little-endian length and that many bytes
(R71, R171). -/
def Obligations.EveryReplyIsOneFrame : Prop :=
  ∀ i (s : State), repliesWithFrame i → ∃ (t : State) (es : List Event) (len : Word16) (payload : List Byte),
    exec i s = .next t ∧ t.trace = s.trace ++ es ∧ payload.length = len.toNat ∧
    txBytes es = [lo8 len, hi8 len] ++ payload

/-- No command but `x`, whose prompt is open, sends more than 2 + 2048 reply bytes, and none has more than 149 * 1024 pin
events (R173, R227). -/
def Obligations.CommandEventsAreBounded : Prop :=
  ∀ i (s t : State), exec i s = .next t → ∃ es, t.trace = s.trace ++ es ∧
    (i ≠ .binX → (txBytes es).length ≤ 2 + 2048) ∧ (es.filter Event.isPin).length ≤ 149 * 1024

/-! ### Interactive commands -/

/-- R184-R188, R192-R196, R198: the ten Interactive names that take no argument run their target command and print
nothing, and an argument given to one is ignored; entry leaves `programMode` true and exit false; `q` has 8 events. That
nothing is printed and a surplus argument ignored is the spec's own D18. -/
def Obligations.InteractiveCommandsRunTargetCommands : Prop :=
  (∀ row ∈ ([(0x70, .intP, .icspEnterProgramMode), (0x71, .intQ, .icspExitProgramMode),
      (0x30, .intZero, .icspResetAddress), (0x69, .intI, .icspIncAddress), (0x63, .intC, .icspLoadConfig),
      (0x65, .intE, .icspEraseRow), (0x61, .intA, .icspEraseAll), (0x77, .intW, .icspBeginIntProg),
      (0x62, .intB, .icspBeginExtProg), (0x66, .intF, .icspEndExtProg)] : List (Byte × Instr × Instr)),
    (∀ arg, decodeEvent ⟨[row.1], arg⟩ = .ok row.2.1) ∧
    ∀ s : State, ∃ t es, exec row.2.2 s = .next t ∧ exec row.2.1 s = .next t ∧ t.trace = s.trace ++ es ∧
      (∀ e ∈ es, e.isPin)) ∧
  (∀ s t : State, exec .intP s = .next t → t.programMode = true) ∧
  (∀ s t : State, exec .intQ s = .next t → t.programMode = false ∧ t.trace.length = s.trace.length + 8)

/-- R191: Interactive `l` loads the value of its argument, 0 where there is none; `l 0x4000` puts a 1 in the stop
position. -/
def Obligations.InteractiveLoadUsesArgument : Prop :=
  (∀ arg, decodeEvent ⟨[0x6C], arg⟩ = .ok (.intL arg)) ∧
  (∀ (arg : Option Token) (s : State), ∃ t,
    exec (.icspLoadData (argValue Config.wideArg arg 0)) s = .next t ∧ exec (.intL arg) s = .next t) ∧
  ∀ row ∈ ([(none, 0x0000), (some [0x30, 0x78, 0x34, 0x30, 0x30, 0x30], 0x8000),
      (some [0x30, 0x78, 0x31, 0x32, 0x33, 0x34], 0x2468)] : List (Option Token × Word16)),
    ∀ s : State, exec (.intL row.1) s = .next { s with
      lvlCLK := .low, lvlDATA := .low, trace := s.trace ++ loadTrace 0x02 row.2 }

/-- R189, R190, with the spec's D16 and D23 (and readBits of C1, D6, D7): Interactive `r` reads as Binary `r` does, then
lists the words it read, with the open bytes of the listing. A read of no words leaves the pins and prints nothing. -/
def Obligations.InteractiveReadListsTheWords : Prop :=
  ∀ (arg : Option Token) (s : State),
    let n := min (argValue Config.wideArg arg 1).toNat 1024
    ∃ t, exec (.intR arg) s = .next t ∧
      t.trace = s.trace ++ bulkTrace n s ++
        (listingBytes Config.listFormat n fun i => (wordAt s i).setWidth 16).map .out ∧
      t.respLen.toNat = 2 * n ∧
      (∀ i < n, t.respBuf.lookup (2 * i) = some (lo8 ((wordAt s i).setWidth 16)) ∧
        t.respBuf.lookup (2 * i + 1) = some (hi8 ((wordAt s i).setWidth 16))) ∧
      (∀ a, 2 * n ≤ a → t.respBuf.lookup a = s.respBuf.lookup a) ∧
      t.smp = (afterSamples (16 * n) s).smp ∧ t.drawn = (afterSamples (16 * n) s).drawn ∧
      (n = 0 → t.dirDATA = s.dirDATA ∧ t.lvlCLK = s.lvlCLK ∧ t.lvlDATA = s.lvlDATA ∧ t.trace = s.trace) ∧
      (n ≠ 0 → t.dirDATA = .out ∧ t.lvlCLK = .low ∧ t.lvlDATA = .low) ∧
      t.mode = s.mode ∧ t.programMode = s.programMode ∧ t.pstate = s.pstate ∧ t.dirCLK = s.dirCLK ∧
      t.lvlPGM_EN = s.lvlPGM_EN ∧ t.lvlLED = s.lvlLED ∧ t.rx = s.rx ∧ t.cmd = s.cmd

/-- R190: the listing of `n` words that were all written has one line break for every 16 words begun. The line break is
taken to be LF and the separator to hold none, so that the breaks can be counted (D16 leaves the bytes open). -/
def Obligations.ListingHasOneBreakPerLine : Prop :=
  ∀ (f : ListFormat) (n : Nat) (s : State), f.newline = [0x0A] → (0x0A : Byte) ∉ f.wordSep → n ≤ 1024 →
    (∀ a < 2 * n, (s.respBuf.lookup a).isSome) →
    ∃ t es, listing f n s = .ok t ∧ t.trace = s.trace ++ es ∧ (outBytes es).count 0x0A = (n + 15) / 16

/-- R197: `.` goes to Binary mode, with no reply and nothing else changed. -/
def Obligations.DotSwitchesToBinary : Prop :=
  (∀ arg, decodeEvent ⟨[0x2E], arg⟩ = .ok .intDot) ∧
  ∀ s : State, exec .intDot s = .next { s with mode := .binary }

/-! ### Operands -/

/-- R182: an absent or unparsable argument is the default, 1 for `r` and 0 for `l`, silently: the command runs as with
that argument. -/
def Obligations.BadArgumentsTakeTheDefault : Prop :=
  ∀ arg : Option Token, arg.bind parseArg = none →
    (∀ wide d, argValue wide arg d = d) ∧
    (∀ s : State, ∃ t, exec (.intR (some [0x31])) s = .next t ∧ exec (.intR arg) s = .next t ∧ t.respLen = 2) ∧
    ∀ s : State, ∃ t, exec (.intL (some [0x30])) s = .next t ∧ exec (.intL arg) s = .next t ∧
      exec (.icspLoadData 0) s = .next t

/-- The argument grammar of R181, the spec's D17: what parses, and to what value. The decimal digits are 0x30 to 0x39, the
hex digits these and 0x41 to 0x46 and 0x61 to 0x66; nothing else parses; and each form has its value in its base, first
digit most significant. `hexArg` writes an argument that parses to its value. -/
def Obligations.ArgumentGrammar : Prop :=
  let dec : Byte → Prop := fun c => 0x30 ≤ c.toNat ∧ c.toNat ≤ 0x39
  let hex : Byte → Prop := fun c =>
    (0x30 ≤ c.toNat ∧ c.toNat ≤ 0x39) ∨ (0x41 ≤ c.toNat ∧ c.toNat ≤ 0x46) ∨ (0x61 ≤ c.toNat ∧ c.toNat ≤ 0x66)
  let value : Byte → Nat := fun c =>
    if c.toNat ≤ 0x39 then c.toNat - 0x30 else if c.toNat ≤ 0x46 then c.toNat - 0x41 + 10 else c.toNat - 0x61 + 10
  (∀ t : Token, (parseArg t).isSome ↔
    (t ≠ [] ∧ ∀ c ∈ t, dec c) ∨ ∃ ds, t = 0x30 :: 0x78 :: ds ∧ ds ≠ [] ∧ ∀ c ∈ ds, hex c) ∧
  (∀ t : Token, t ≠ [] → (∀ c ∈ t, dec c) → parseArg t = some (t.foldl (fun n c => 10 * n + value c) 0)) ∧
  (∀ ds : Token, ds ≠ [] → (∀ c ∈ ds, hex c) →
    parseArg (0x30 :: 0x78 :: ds) = some (ds.foldl (fun n c => 16 * n + value c) 0)) ∧
  ∀ v : Word16, parseArg (hexArg v) = some v.toNat

/-- R183 and R10, the spec's D17: a value below 2^16 is taken, a wider one by `WIDE_ARG`, whose default is REDUCE; and what
`r` and `l` do at that default with a value of any width; `exec` runs them at the setting `Config.wideArg`. -/
def Obligations.WideArgumentsByParameter : Prop :=
  Config.wideArgDefault = .reduce ∧
  (∀ (arg : Option Token) (s : State),
    (∃ t, interactiveRead Config.wideArg Config.listFormat arg s = .ok t ∧ exec (.intR arg) s = .next t) ∧
    ∃ t, interactiveLoad Config.wideArg arg s = .ok t ∧ exec (.intL arg) s = .next t) ∧
  ∀ (t : Token) (n : Nat) (d : Word16), parseArg t = some n →
    (n < 2 ^ 16 → ∀ wide, (argValue wide (some t) d).toNat = n) ∧
    (2 ^ 16 ≤ n → (argValue .reduce (some t) d).toNat = n % 2 ^ 16 ∧ argValue .useDefault (some t) d = d) ∧
    ∀ s : State,
      (∃ u, loadData (BitVec.ofNat 16 n) s = .ok u ∧ interactiveLoad Config.wideArgDefault (some t) s = .ok u) ∧
      ∀ f : ListFormat, ∃ (u : State) (es : List Byte), interactiveRead Config.wideArgDefault f (some t) s = .ok u ∧
        u.respLen.toNat = 2 * min (n % 2 ^ 16) 1024 ∧
        u.trace = s.trace ++ bulkTrace (min (n % 2 ^ 16) 1024) s ++ es.map .out

/-- R47: the argument of Binary `r` and `l` is little-endian. -/
def Obligations.BinaryArgumentsAreLittleEndian : Prop :=
  ∀ first second : Byte,
    (binaryArg first second).toNat = first.toNat + 256 * second.toNat ∧
    binaryArg first second = first.setWidth 16 ||| (second.setWidth 16 <<< 8) ∧
    decodeBytes [0x72, first, second] = .ok (.binR (binaryArg first second), []) ∧
    decodeBytes [0x6C, first, second] = .ok (.binL (binaryArg first second), [])

/-! ### The step -/

/-- R152: what a Binary step does with the byte it takes, by the argument state. -/
def Obligations.StepRunsTheDecodedByte : Prop :=
  ∀ (s : State) (b : Byte) (rest : List Byte), s.mode = .binary → s.rx = b :: rest →
    (∀ op, s.pstate = .arg1 op → step s = .next { s with rx := rest, pstate := .arg2 op b }) ∧
    (∀ lo, s.pstate = .arg2 .r lo → step s = exec (.binR (le16 lo b)) { s with rx := rest, pstate := .idle }) ∧
    (∀ lo, s.pstate = .arg2 .l lo → step s = exec (.binL (le16 lo b)) { s with rx := rest, pstate := .idle }) ∧
    (s.pstate = .idle → b = 0x72 → step s = .next { s with rx := rest, pstate := .arg1 .r }) ∧
    (s.pstate = .idle → b = 0x6C → step s = .next { s with rx := rest, pstate := .arg1 .l }) ∧
    (s.pstate = .idle → ∀ i, decodeBytes [b] = .ok (i, []) → step s = exec i { s with rx := rest })

/-- R68: `r` and `l` take their argument from the next two bytes, low byte first, whatever those are: three steps run
one command. -/
def Obligations.ThreeBytesRunOneCommand : Prop :=
  ∀ (s : State) (op : ArgOp) (lo hi : Byte) (rest : List Byte), s.mode = .binary → s.pstate = .idle →
    s.rx = (match op with | .r => 0x72 | .l => 0x6C) :: lo :: hi :: rest →
    Sys2Proof.core.run 3 s = exec (op.instr (le16 lo hi)) { s with rx := rest } ∧
    encode (op.instr (le16 lo hi)) = .bytes [match op with | .r => 0x72 | .l => 0x6C, lo, hi]

/-- R81, R180, R198, with the spec's D18 and D25: an Interactive step runs the command its event names, which is one of
thirteen by the exact name; an event with any other name is taken with no effect. -/
def Obligations.StepRunsTheDecodedEvent : Prop :=
  let names : List Token := [[0x70], [0x71], [0x30], [0x69], [0x63], [0x72], [0x6C], [0x65], [0x61], [0x77], [0x62],
    [0x66], [0x2E]]
  (∀ arg : Option Token, names.map (fun name => decodeEvent ⟨name, arg⟩) =
    [.ok .intP, .ok .intQ, .ok .intZero, .ok .intI, .ok .intC, .ok (.intR arg), .ok (.intL arg), .ok .intE, .ok .intA,
      .ok .intW, .ok .intB, .ok .intF, .ok .intDot]) ∧
  (∀ e : CmdEvent, e.name ∉ names → decodeEvent e = .error (.unknownName e.name)) ∧
  ∀ (s : State) (e : CmdEvent) (es : List CmdEvent), s.mode = .interactive → s.cmd = e :: es →
    (∀ i, decodeEvent e = .ok i → step s = exec i { s with cmd := es }) ∧
    (∀ err, decodeEvent e = .error err → step s = .next { s with cmd := es }) ∧
    (e.name ∉ names → step s = .next { s with cmd := es })

/-- R151, R204: the three holds. In them a step changes nothing (that it answers the same state is the model's choice,
log 4); the host lifts the two Binary ones and the console the Interactive one, and no other agent does. -/
def Obligations.HoldsAreLiftedByTheirAgent : Prop :=
  (∀ s : State, s.hasNoStep → step s = .next s) ∧
  (∀ (s : State) (b : Byte), s.atRest ∨ s.held → ¬ (hostSends [b] s).hasNoStep) ∧
  (∀ (s : State) (e : CmdEvent), s.idleInteractive → ¬ (consoleDelivers e s).hasNoStep) ∧
  (∀ (s : State) (e : CmdEvent), s.atRest ∨ s.held → (consoleDelivers e s).hasNoStep) ∧
  (∀ (s : State) (bs : List Byte), s.idleInteractive → (hostSends bs s).hasNoStep) ∧
  ∀ (s : State) (bs : List Bit), s.hasNoStep → (targetShows bs s).hasNoStep

/-- R13, R150: outside the holds one step takes exactly one input unit, from the port that the mode names. -/
def Obligations.OneInputUnitPerStep : Prop :=
  ∀ s : State, ¬ s.hasNoStep → ∃ t, step s = .next t ∧
    (s.mode = .interactive → s.cmd ≠ [] ∧ t.cmd = s.cmd.tail ∧ t.rx = s.rx) ∧
    (s.mode = .binary → s.rx ≠ [] ∧ t.rx = s.rx.tail ∧ t.cmd = s.cmd)

/-! ### Encodings -/

/-- Decode and encode agree on every well-formed instruction of all three levels. -/
def Obligations.DecodeOfEncode : Prop := ∀ i : Instr, i.wf = true → decode (encode i) = .ok i

/-- A Binary command is the encoding of what it decodes to, its length is told by its first byte, and what follows it is
left (R70). -/
def Obligations.BinaryDecodingIsExact : Prop :=
  ∀ (bs rest : List Byte) (i : Instr), decodeBytes bs = .ok (i, rest) →
    i.wf = true ∧ ∃ head, encode i = .bytes head ∧ bs = head ++ rest ∧
      head.length = if bs.head? = some 0x72 ∨ bs.head? = some 0x6C then 3 else 1

/-- R74: the opcode map of all 256 bytes. -/
def Obligations.ByteTableIsComplete : Prop :=
  (∀ row ∈ ([(0x70, .binP), (0x71, .binQ), (0x30, .binZero), (0x69, .binI), (0x63, .binC), (0x65, .binE), (0x61, .binA),
      (0x77, .binW), (0x62, .binB), (0x66, .binF), (0x76, .binV), (0x78, .binX), (0x0D, .binCr), (0x0A, .binLf),
      (0x20, .binSpace)] : List (Byte × Instr)), decodeFirst row.1 = .whole row.2) ∧
  decodeFirst 0x72 = .args .r ∧ decodeFirst 0x6C = .args .l ∧
  (∀ b : Byte, decodeFirst b = .whole (.binUnrecognized b) ∨ b ∈ recognizedBytes) ∧
  ((List.range 256).filter fun k => decodeFirst (BitVec.ofNat 8 k) = .whole (.binUnrecognized (BitVec.ofNat 8 k))).length
    = 239

/-- A few words written out from the spec's encodings decode to what they stand for (R74, R75, R81). -/
def Obligations.SampleWordsDecode : Prop :=
  decodeBytes [0x70] = .ok (.binP, []) ∧ decodeBytes [0x72, 0x05, 0x00] = .ok (.binR 5, []) ∧
  decodeBytes [0x6C, 0x34, 0x12, 0x76] = .ok (.binL 0x1234, [0x76]) ∧
  decodeBytes [0x7F] = .ok (.binUnrecognized 0x7F, []) ∧
  decodeWire [false, true, true, false, true, false] = .ok .icspResetAddress ∧
  decodeWire ([false, true, false, false, false, false] ++
    [false, false, false, true, false, true, true, false, false, false, true, false, false, true, false, false])
      = .ok (.icspLoadData 0x1234) ∧
  decodeEvent ⟨[0x2E], none⟩ = .ok .intDot ∧
  decodeEvent ⟨[0x72], some [0x31, 0x37]⟩ = .ok (.intR (some [0x31, 0x37]))

/-- Of the 64 six-bit codes exactly the ten of R75 stand for a target command: each of the ten decodes with the payload
that R75 gives it to the command of its row, any other code is refused whatever follows it, and every encoding of a code
begins with one of the ten. -/
def Obligations.UnusedCodesAreRefused : Prop :=
  (∀ row ∈ ([(0x04, .icspReadWord), (0x06, .icspIncAddress), (0x08, .icspBeginIntProg), (0x09, .icspEraseAll),
      (0x0A, .icspEndExtProg), (0x11, .icspEraseRow), (0x16, .icspResetAddress),
      (0x18, .icspBeginExtProg)] : List (BitVec 6 × Instr)), decodeCommand row.1 [] = .ok row.2) ∧
  decodeCommand 0x00 (List.replicate 16 false) = .ok .icspLoadConfig ∧
  (∀ v : Word16, decodeCommand 0x02 (wireBits (v <<< 1)) = .ok (.icspLoadData (v &&& 0x7FFF))) ∧
  (∀ code : BitVec 6, (∃ payload i, decodeCommand code payload = .ok i) ↔
    code ∈ ([0x00, 0x02, 0x04, 0x06, 0x08, 0x09, 0x0A, 0x11, 0x16, 0x18] : List (BitVec 6))) ∧
  (∀ code : BitVec 6, code ∉ ([0x00, 0x02, 0x04, 0x06, 0x08, 0x09, 0x0A, 0x11, 0x16, 0x18] : List (BitVec 6)) →
    ∀ payload, decodeCommand code payload = .error (.unusedCode code)) ∧
  ∀ i : Instr, ∀ bits, encode i = .wire bits → bits.length = 6 ∨ bits.length = 22 →
    ofWireBits 6 (bits.take 6) ∈ ([0x00, 0x02, 0x04, 0x06, 0x08, 0x09, 0x0A, 0x11, 0x16, 0x18] : List (BitVec 6))

/-- What a target command drives on DATA during its clock pulses is its encoding, bit for bit in order (R76-R79). -/
def Obligations.WireCarriesTheEncoding : Prop :=
  ∀ (i : Instr) (bits : List Bit) (s : State), encode i = .wire bits →
    ∃ t es, exec i s = .next t ∧ t.trace = s.trace ++ es ∧ pulsedBits es = bits

/-! ### The engine -/

/-- R103, with the spec's D8 for the widths outside: `send` inside 6..33 bits emits its events and leaves CLOCK and DATA
LOW and all else as it was; outside it has no meaning. -/
def Obligations.SendShiftsOutAndEndsLow : Prop :=
  ∀ (value : BitVec 64) (n : Nat) (s : State),
    (n < 6 ∨ 33 < n → send value n s = .error (.engineSendWidth n)) ∧
    (6 ≤ n → n ≤ 33 → send value n s = .ok { s with
      lvlCLK := .low, lvlDATA := .low,
      trace := s.trace ++ [.wait .tStart] ++ ((List.range n).flatMap fun i =>
        [.lvl .clock .high, .lvl .data (levelOf (value.getLsbD i)), .wait .tBit, .lvl .clock .low, .wait .tBit])
        ++ [.lvl .data .low] })

/-- R104: `send` emits 5n + 2 events with exactly n clock pulses, the last of them DATA LOW. -/
def Obligations.SendEventCount : Prop :=
  ∀ (value : BitVec 64) (n : Nat) (s : State), 6 ≤ n → n ≤ 33 → ∃ t es, send value n s = .ok t ∧
    t.trace = s.trace ++ es ∧ es.length = 5 * n + 2 ∧ clockPulses es = n ∧ es.getLast? = some (.lvl .data .low)

/-- R105: the bit on DATA during the i-th clock pulse is bit i of the value, least significant first. -/
def Obligations.SendIsLeastSignificantFirst : Prop :=
  ∀ (value : BitVec 64) (n : Nat) (s : State), 6 ≤ n → n ≤ 33 → ∃ t es, send value n s = .ok t ∧
    t.trace = s.trace ++ es ∧ (pulsedBits es).length = n ∧
    ∀ i < n, (pulsedBits es)[i]? = some (value.getLsbD i)

/-- R106-R109, with C1, D6 and D7: `readBits(16)` emits 83 events with 16 pulses, takes 16 samples, and returns samples
1 to 14, the first as bit 0; another count has no meaning. -/
def Obligations.ReadBitsDropsTheFraming : Prop :=
  (∀ s : State, ∃ w t es, readBits 16 s = .ok (w, t) ∧
    (∀ j < 14, w.getLsbD j = (nextSamples 16 s).getD (j + 1) false) ∧
    t = { afterSamples 16 s with
      dirDATA := .out, lvlCLK := .low, lvlDATA := .low, trace := s.trace ++ es } ∧
    es.length = 83 ∧ clockPulses es = 16 ∧ es.head? = some (.dir .data .inp)) ∧
  ∀ n (s : State), n ≠ 16 → readBits n s = .error (.engineReadWidth n)

/-- R111: where the target answers with the frame that load data sends for `v`, the word read is the 14 low bits of
`v`. -/
def Obligations.RoundTripRecoversTheValue : Prop :=
  ∀ (v : Word16) (s : State) (rest : List Bit), s.smp = wireBits (v <<< 1) ++ rest →
    ∃ t, readBits 16 s = .ok (v.setWidth 14, t) ∧ t.smp = rest

/-- R136: the event counts of the operations. -/
def Obligations.OperationEventCounts : Prop :=
  (∀ row ∈ ([(.icspEnterProgramMode, 174), (.icspExitProgramMode, 8), (.icspResetAddress, 32), (.icspIncAddress, 32),
      (.icspLoadConfig, 115), (.icspReadWord, 117), (.icspEraseRow, 33), (.icspEraseAll, 33), (.icspBeginIntProg, 33),
      (.icspBeginExtProg, 33), (.icspEndExtProg, 33)] : List (Instr × Nat)),
    ∀ s : State, ∃ t, exec row.1 s = .next t ∧ t.trace.length = s.trace.length + row.2) ∧
  (∀ (v : Word16) (s : State), ∃ t, exec (.icspLoadData v) s = .next t ∧ t.trace.length = s.trace.length + 115) ∧
  ∀ (count : Word16) (s : State), ∃ t, readProgramMemory count s = .ok t ∧
    t.trace.length = s.trace.length + 149 * min count.toNat 1024

/-- R234: the least time of a command is the sum of its waits: for erase row and for a bulk read. -/
def Obligations.WaitsBoundTimeBelow : Prop :=
  (∀ (c : Timing) (s : State), ∃ t es, exec .icspEraseRow s = .next t ∧ t.trace = s.trace ++ es ∧
    elapsed c es = c.tStart + 12 * c.tBit + c.tEraseRow) ∧
  ∀ (c : Timing) (count : Word16) (s : State), ∃ t es, readProgramMemory count s = .ok t ∧ t.trace = s.trace ++ es ∧
    elapsed c es = min count.toNat 1024 * (2 * c.tStart + 56 * c.tBit + 6 * c.delayUnit)
end

