-- ==== Sys2Proof/Laws/Bits.lean ====
section
/-! SUPPORT. Bits in wire order and byte order: the values they stand for. -/

namespace Sys2Proof

theorem testBit_natOfBits (bs : List Bit) (i : Nat) : (natOfBits bs).testBit i = bs.getD i false := by
  induction bs generalizing i with
  | nil => simp [natOfBits]
  | cons b bs ih =>
    cases i with
    | zero => cases b <;> simp [natOfBits, Nat.testBit_zero]
    | succ i =>
      rw [natOfBits, Nat.testBit_succ]
      have : (b.toNat + 2 * natOfBits bs) / 2 = natOfBits bs := by cases b <;> (simp; try omega)
      rw [this, ih]
      rfl

@[simp] theorem getLsbD_ofWireBits (n : Nat) (bs : List Bit) (i : Nat) :
    (ofWireBits n bs).getLsbD i = (decide (i < n) && bs.getD i false) := by
  rw [ofWireBits, BitVec.getLsbD_ofNat, testBit_natOfBits]

@[simp] theorem length_wireBits {n : Nat} (v : BitVec n) : (wireBits v).length = n := by simp [wireBits]

theorem getD_wireBits {n : Nat} (v : BitVec n) (i : Nat) : (wireBits v).getD i false = v.getLsbD i := by
  rcases Nat.lt_or_ge i n with h | h
  · simp [wireBits, List.getD_eq_getElem?_getD, h]
  · simp [wireBits, List.getD_eq_getElem?_getD, h]

/-- The bits of a value stand for it. -/
theorem ofWireBits_wireBits {n : Nat} (v : BitVec n) : ofWireBits n (wireBits v) = v := by
  apply BitVec.eq_of_getLsbD_eq
  intro i hi
  rw [getLsbD_ofWireBits, getD_wireBits]
  simp [hi]

theorem wireBits_inj {n : Nat} {v w : BitVec n} (h : wireBits v = wireBits w) : v = w := by
  rw [← ofWireBits_wireBits v, h, ofWireBits_wireBits]

theorem lo8_le16 (lo hi : Byte) : lo8 (le16 lo hi) = lo := by
  apply BitVec.eq_of_getLsbD_eq
  intro i h
  simp [lo8, le16, h, show i < 16 by omega]

theorem hi8_le16 (lo hi : Byte) : hi8 (le16 lo hi) = hi := by
  apply BitVec.eq_of_getLsbD_eq
  intro i h
  simp [hi8, le16, h, show 8 + i < 16 by omega]

theorem le16_lo8_hi8 (w : Word16) : le16 (lo8 w) (hi8 w) = w := by
  apply BitVec.eq_of_getLsbD_eq
  intro i hi
  simp only [le16, lo8, hi8, BitVec.getLsbD_or, BitVec.getLsbD_setWidth, BitVec.getLsbD_shiftLeft,
    BitVec.getLsbD_extractLsb']
  by_cases h : i < 8
  · simp [h, hi]
  · simp [h, hi, show i - 8 < 8 by omega, show i - 8 < 16 by omega, show 8 + (i - 8) = i by omega]

end Sys2Proof
end

