-- ==== Sys2Proof/Laws/State.lean ====
section
/-! SUPPORT. One lemma per field of the state per update of Ops, Flags and Observe. -/

namespace Sys2Proof.Machine

variable (s : State)

/-! `emit es s` -/

@[simp] theorem emit_mode (es : List Event) : (emit es s).mode = s.mode := rfl
@[simp] theorem emit_programMode (es : List Event) : (emit es s).programMode = s.programMode := rfl
@[simp] theorem emit_respLen (es : List Event) : (emit es s).respLen = s.respLen := rfl
@[simp] theorem emit_respBuf (es : List Event) : (emit es s).respBuf = s.respBuf := rfl
@[simp] theorem emit_pstate (es : List Event) : (emit es s).pstate = s.pstate := rfl
@[simp] theorem emit_dirCLK (es : List Event) : (emit es s).dirCLK = s.dirCLK := rfl
@[simp] theorem emit_dirDATA (es : List Event) : (emit es s).dirDATA = s.dirDATA := rfl
@[simp] theorem emit_lvlCLK (es : List Event) : (emit es s).lvlCLK = s.lvlCLK := rfl
@[simp] theorem emit_lvlDATA (es : List Event) : (emit es s).lvlDATA = s.lvlDATA := rfl
@[simp] theorem emit_lvlPGM_EN (es : List Event) : (emit es s).lvlPGM_EN = s.lvlPGM_EN := rfl
@[simp] theorem emit_lvlLED (es : List Event) : (emit es s).lvlLED = s.lvlLED := rfl
@[simp] theorem emit_rx (es : List Event) : (emit es s).rx = s.rx := rfl
@[simp] theorem emit_cmd (es : List Event) : (emit es s).cmd = s.cmd := rfl
@[simp] theorem emit_smp (es : List Event) : (emit es s).smp = s.smp := rfl
@[simp] theorem emit_drawn (es : List Event) : (emit es s).drawn = s.drawn := rfl
@[simp] theorem emit_trace (es : List Event) : (emit es s).trace = s.trace ++ es := rfl

/-! `wait t s` -/

@[simp] theorem wait_mode (t : Duration) : (wait t s).mode = s.mode := rfl
@[simp] theorem wait_programMode (t : Duration) : (wait t s).programMode = s.programMode := rfl
@[simp] theorem wait_respLen (t : Duration) : (wait t s).respLen = s.respLen := rfl
@[simp] theorem wait_respBuf (t : Duration) : (wait t s).respBuf = s.respBuf := rfl
@[simp] theorem wait_pstate (t : Duration) : (wait t s).pstate = s.pstate := rfl
@[simp] theorem wait_dirCLK (t : Duration) : (wait t s).dirCLK = s.dirCLK := rfl
@[simp] theorem wait_dirDATA (t : Duration) : (wait t s).dirDATA = s.dirDATA := rfl
@[simp] theorem wait_lvlCLK (t : Duration) : (wait t s).lvlCLK = s.lvlCLK := rfl
@[simp] theorem wait_lvlDATA (t : Duration) : (wait t s).lvlDATA = s.lvlDATA := rfl
@[simp] theorem wait_lvlPGM_EN (t : Duration) : (wait t s).lvlPGM_EN = s.lvlPGM_EN := rfl
@[simp] theorem wait_lvlLED (t : Duration) : (wait t s).lvlLED = s.lvlLED := rfl
@[simp] theorem wait_rx (t : Duration) : (wait t s).rx = s.rx := rfl
@[simp] theorem wait_cmd (t : Duration) : (wait t s).cmd = s.cmd := rfl
@[simp] theorem wait_smp (t : Duration) : (wait t s).smp = s.smp := rfl
@[simp] theorem wait_drawn (t : Duration) : (wait t s).drawn = s.drawn := rfl
@[simp] theorem wait_trace (t : Duration) : (wait t s).trace = s.trace ++ [.wait t] := rfl

/-! `tx bs s` -/

@[simp] theorem tx_mode (bs : List Byte) : (tx bs s).mode = s.mode := rfl
@[simp] theorem tx_programMode (bs : List Byte) : (tx bs s).programMode = s.programMode := rfl
@[simp] theorem tx_respLen (bs : List Byte) : (tx bs s).respLen = s.respLen := rfl
@[simp] theorem tx_respBuf (bs : List Byte) : (tx bs s).respBuf = s.respBuf := rfl
@[simp] theorem tx_pstate (bs : List Byte) : (tx bs s).pstate = s.pstate := rfl
@[simp] theorem tx_dirCLK (bs : List Byte) : (tx bs s).dirCLK = s.dirCLK := rfl
@[simp] theorem tx_dirDATA (bs : List Byte) : (tx bs s).dirDATA = s.dirDATA := rfl
@[simp] theorem tx_lvlCLK (bs : List Byte) : (tx bs s).lvlCLK = s.lvlCLK := rfl
@[simp] theorem tx_lvlDATA (bs : List Byte) : (tx bs s).lvlDATA = s.lvlDATA := rfl
@[simp] theorem tx_lvlPGM_EN (bs : List Byte) : (tx bs s).lvlPGM_EN = s.lvlPGM_EN := rfl
@[simp] theorem tx_lvlLED (bs : List Byte) : (tx bs s).lvlLED = s.lvlLED := rfl
@[simp] theorem tx_rx (bs : List Byte) : (tx bs s).rx = s.rx := rfl
@[simp] theorem tx_cmd (bs : List Byte) : (tx bs s).cmd = s.cmd := rfl
@[simp] theorem tx_smp (bs : List Byte) : (tx bs s).smp = s.smp := rfl
@[simp] theorem tx_drawn (bs : List Byte) : (tx bs s).drawn = s.drawn := rfl
@[simp] theorem tx_trace (bs : List Byte) : (tx bs s).trace = s.trace ++ bs.map .tx := rfl

/-! `out bs s` -/

@[simp] theorem out_mode (bs : List Byte) : (out bs s).mode = s.mode := rfl
@[simp] theorem out_programMode (bs : List Byte) : (out bs s).programMode = s.programMode := rfl
@[simp] theorem out_respLen (bs : List Byte) : (out bs s).respLen = s.respLen := rfl
@[simp] theorem out_respBuf (bs : List Byte) : (out bs s).respBuf = s.respBuf := rfl
@[simp] theorem out_pstate (bs : List Byte) : (out bs s).pstate = s.pstate := rfl
@[simp] theorem out_dirCLK (bs : List Byte) : (out bs s).dirCLK = s.dirCLK := rfl
@[simp] theorem out_dirDATA (bs : List Byte) : (out bs s).dirDATA = s.dirDATA := rfl
@[simp] theorem out_lvlCLK (bs : List Byte) : (out bs s).lvlCLK = s.lvlCLK := rfl
@[simp] theorem out_lvlDATA (bs : List Byte) : (out bs s).lvlDATA = s.lvlDATA := rfl
@[simp] theorem out_lvlPGM_EN (bs : List Byte) : (out bs s).lvlPGM_EN = s.lvlPGM_EN := rfl
@[simp] theorem out_lvlLED (bs : List Byte) : (out bs s).lvlLED = s.lvlLED := rfl
@[simp] theorem out_rx (bs : List Byte) : (out bs s).rx = s.rx := rfl
@[simp] theorem out_cmd (bs : List Byte) : (out bs s).cmd = s.cmd := rfl
@[simp] theorem out_smp (bs : List Byte) : (out bs s).smp = s.smp := rfl
@[simp] theorem out_drawn (bs : List Byte) : (out bs s).drawn = s.drawn := rfl
@[simp] theorem out_trace (bs : List Byte) : (out bs s).trace = s.trace ++ bs.map .out := rfl

/-! `dir .clock d s` -/

@[simp] theorem dir_clock_mode (d : Dir) : (dir .clock d s).mode = s.mode := rfl
@[simp] theorem dir_clock_programMode (d : Dir) : (dir .clock d s).programMode = s.programMode := rfl
@[simp] theorem dir_clock_respLen (d : Dir) : (dir .clock d s).respLen = s.respLen := rfl
@[simp] theorem dir_clock_respBuf (d : Dir) : (dir .clock d s).respBuf = s.respBuf := rfl
@[simp] theorem dir_clock_pstate (d : Dir) : (dir .clock d s).pstate = s.pstate := rfl
@[simp] theorem dir_clock_dirCLK (d : Dir) : (dir .clock d s).dirCLK = d := rfl
@[simp] theorem dir_clock_dirDATA (d : Dir) : (dir .clock d s).dirDATA = s.dirDATA := rfl
@[simp] theorem dir_clock_lvlCLK (d : Dir) : (dir .clock d s).lvlCLK = s.lvlCLK := rfl
@[simp] theorem dir_clock_lvlDATA (d : Dir) : (dir .clock d s).lvlDATA = s.lvlDATA := rfl
@[simp] theorem dir_clock_lvlPGM_EN (d : Dir) : (dir .clock d s).lvlPGM_EN = s.lvlPGM_EN := rfl
@[simp] theorem dir_clock_lvlLED (d : Dir) : (dir .clock d s).lvlLED = s.lvlLED := rfl
@[simp] theorem dir_clock_rx (d : Dir) : (dir .clock d s).rx = s.rx := rfl
@[simp] theorem dir_clock_cmd (d : Dir) : (dir .clock d s).cmd = s.cmd := rfl
@[simp] theorem dir_clock_smp (d : Dir) : (dir .clock d s).smp = s.smp := rfl
@[simp] theorem dir_clock_drawn (d : Dir) : (dir .clock d s).drawn = s.drawn := rfl
@[simp] theorem dir_clock_trace (d : Dir) : (dir .clock d s).trace = s.trace ++ [.dir .clock d] := rfl

/-! `dir .data d s` -/

@[simp] theorem dir_data_mode (d : Dir) : (dir .data d s).mode = s.mode := rfl
@[simp] theorem dir_data_programMode (d : Dir) : (dir .data d s).programMode = s.programMode := rfl
@[simp] theorem dir_data_respLen (d : Dir) : (dir .data d s).respLen = s.respLen := rfl
@[simp] theorem dir_data_respBuf (d : Dir) : (dir .data d s).respBuf = s.respBuf := rfl
@[simp] theorem dir_data_pstate (d : Dir) : (dir .data d s).pstate = s.pstate := rfl
@[simp] theorem dir_data_dirCLK (d : Dir) : (dir .data d s).dirCLK = s.dirCLK := rfl
@[simp] theorem dir_data_dirDATA (d : Dir) : (dir .data d s).dirDATA = d := rfl
@[simp] theorem dir_data_lvlCLK (d : Dir) : (dir .data d s).lvlCLK = s.lvlCLK := rfl
@[simp] theorem dir_data_lvlDATA (d : Dir) : (dir .data d s).lvlDATA = s.lvlDATA := rfl
@[simp] theorem dir_data_lvlPGM_EN (d : Dir) : (dir .data d s).lvlPGM_EN = s.lvlPGM_EN := rfl
@[simp] theorem dir_data_lvlLED (d : Dir) : (dir .data d s).lvlLED = s.lvlLED := rfl
@[simp] theorem dir_data_rx (d : Dir) : (dir .data d s).rx = s.rx := rfl
@[simp] theorem dir_data_cmd (d : Dir) : (dir .data d s).cmd = s.cmd := rfl
@[simp] theorem dir_data_smp (d : Dir) : (dir .data d s).smp = s.smp := rfl
@[simp] theorem dir_data_drawn (d : Dir) : (dir .data d s).drawn = s.drawn := rfl
@[simp] theorem dir_data_trace (d : Dir) : (dir .data d s).trace = s.trace ++ [.dir .data d] := rfl

/-! `set .clock l s` -/

@[simp] theorem set_clock_mode (l : Level) : (set .clock l s).mode = s.mode := rfl
@[simp] theorem set_clock_programMode (l : Level) : (set .clock l s).programMode = s.programMode := rfl
@[simp] theorem set_clock_respLen (l : Level) : (set .clock l s).respLen = s.respLen := rfl
@[simp] theorem set_clock_respBuf (l : Level) : (set .clock l s).respBuf = s.respBuf := rfl
@[simp] theorem set_clock_pstate (l : Level) : (set .clock l s).pstate = s.pstate := rfl
@[simp] theorem set_clock_dirCLK (l : Level) : (set .clock l s).dirCLK = s.dirCLK := rfl
@[simp] theorem set_clock_dirDATA (l : Level) : (set .clock l s).dirDATA = s.dirDATA := rfl
@[simp] theorem set_clock_lvlCLK (l : Level) : (set .clock l s).lvlCLK = l := rfl
@[simp] theorem set_clock_lvlDATA (l : Level) : (set .clock l s).lvlDATA = s.lvlDATA := rfl
@[simp] theorem set_clock_lvlPGM_EN (l : Level) : (set .clock l s).lvlPGM_EN = s.lvlPGM_EN := rfl
@[simp] theorem set_clock_lvlLED (l : Level) : (set .clock l s).lvlLED = s.lvlLED := rfl
@[simp] theorem set_clock_rx (l : Level) : (set .clock l s).rx = s.rx := rfl
@[simp] theorem set_clock_cmd (l : Level) : (set .clock l s).cmd = s.cmd := rfl
@[simp] theorem set_clock_smp (l : Level) : (set .clock l s).smp = s.smp := rfl
@[simp] theorem set_clock_drawn (l : Level) : (set .clock l s).drawn = s.drawn := rfl
@[simp] theorem set_clock_trace (l : Level) : (set .clock l s).trace = s.trace ++ [.lvl .clock l] := rfl

/-! `set .data l s` -/

@[simp] theorem set_data_mode (l : Level) : (set .data l s).mode = s.mode := rfl
@[simp] theorem set_data_programMode (l : Level) : (set .data l s).programMode = s.programMode := rfl
@[simp] theorem set_data_respLen (l : Level) : (set .data l s).respLen = s.respLen := rfl
@[simp] theorem set_data_respBuf (l : Level) : (set .data l s).respBuf = s.respBuf := rfl
@[simp] theorem set_data_pstate (l : Level) : (set .data l s).pstate = s.pstate := rfl
@[simp] theorem set_data_dirCLK (l : Level) : (set .data l s).dirCLK = s.dirCLK := rfl
@[simp] theorem set_data_dirDATA (l : Level) : (set .data l s).dirDATA = s.dirDATA := rfl
@[simp] theorem set_data_lvlCLK (l : Level) : (set .data l s).lvlCLK = s.lvlCLK := rfl
@[simp] theorem set_data_lvlDATA (l : Level) : (set .data l s).lvlDATA = l := rfl
@[simp] theorem set_data_lvlPGM_EN (l : Level) : (set .data l s).lvlPGM_EN = s.lvlPGM_EN := rfl
@[simp] theorem set_data_lvlLED (l : Level) : (set .data l s).lvlLED = s.lvlLED := rfl
@[simp] theorem set_data_rx (l : Level) : (set .data l s).rx = s.rx := rfl
@[simp] theorem set_data_cmd (l : Level) : (set .data l s).cmd = s.cmd := rfl
@[simp] theorem set_data_smp (l : Level) : (set .data l s).smp = s.smp := rfl
@[simp] theorem set_data_drawn (l : Level) : (set .data l s).drawn = s.drawn := rfl
@[simp] theorem set_data_trace (l : Level) : (set .data l s).trace = s.trace ++ [.lvl .data l] := rfl

/-! `set .pgmEn l s` -/

@[simp] theorem set_pgmEn_mode (l : Level) : (set .pgmEn l s).mode = s.mode := rfl
@[simp] theorem set_pgmEn_programMode (l : Level) : (set .pgmEn l s).programMode = s.programMode := rfl
@[simp] theorem set_pgmEn_respLen (l : Level) : (set .pgmEn l s).respLen = s.respLen := rfl
@[simp] theorem set_pgmEn_respBuf (l : Level) : (set .pgmEn l s).respBuf = s.respBuf := rfl
@[simp] theorem set_pgmEn_pstate (l : Level) : (set .pgmEn l s).pstate = s.pstate := rfl
@[simp] theorem set_pgmEn_dirCLK (l : Level) : (set .pgmEn l s).dirCLK = s.dirCLK := rfl
@[simp] theorem set_pgmEn_dirDATA (l : Level) : (set .pgmEn l s).dirDATA = s.dirDATA := rfl
@[simp] theorem set_pgmEn_lvlCLK (l : Level) : (set .pgmEn l s).lvlCLK = s.lvlCLK := rfl
@[simp] theorem set_pgmEn_lvlDATA (l : Level) : (set .pgmEn l s).lvlDATA = s.lvlDATA := rfl
@[simp] theorem set_pgmEn_lvlPGM_EN (l : Level) : (set .pgmEn l s).lvlPGM_EN = l := rfl
@[simp] theorem set_pgmEn_lvlLED (l : Level) : (set .pgmEn l s).lvlLED = s.lvlLED := rfl
@[simp] theorem set_pgmEn_rx (l : Level) : (set .pgmEn l s).rx = s.rx := rfl
@[simp] theorem set_pgmEn_cmd (l : Level) : (set .pgmEn l s).cmd = s.cmd := rfl
@[simp] theorem set_pgmEn_smp (l : Level) : (set .pgmEn l s).smp = s.smp := rfl
@[simp] theorem set_pgmEn_drawn (l : Level) : (set .pgmEn l s).drawn = s.drawn := rfl
@[simp] theorem set_pgmEn_trace (l : Level) : (set .pgmEn l s).trace = s.trace ++ [.lvl .pgmEn l] := rfl

/-! `set .led l s` -/

@[simp] theorem set_led_mode (l : Level) : (set .led l s).mode = s.mode := rfl
@[simp] theorem set_led_programMode (l : Level) : (set .led l s).programMode = s.programMode := rfl
@[simp] theorem set_led_respLen (l : Level) : (set .led l s).respLen = s.respLen := rfl
@[simp] theorem set_led_respBuf (l : Level) : (set .led l s).respBuf = s.respBuf := rfl
@[simp] theorem set_led_pstate (l : Level) : (set .led l s).pstate = s.pstate := rfl
@[simp] theorem set_led_dirCLK (l : Level) : (set .led l s).dirCLK = s.dirCLK := rfl
@[simp] theorem set_led_dirDATA (l : Level) : (set .led l s).dirDATA = s.dirDATA := rfl
@[simp] theorem set_led_lvlCLK (l : Level) : (set .led l s).lvlCLK = s.lvlCLK := rfl
@[simp] theorem set_led_lvlDATA (l : Level) : (set .led l s).lvlDATA = s.lvlDATA := rfl
@[simp] theorem set_led_lvlPGM_EN (l : Level) : (set .led l s).lvlPGM_EN = s.lvlPGM_EN := rfl
@[simp] theorem set_led_lvlLED (l : Level) : (set .led l s).lvlLED = l := rfl
@[simp] theorem set_led_rx (l : Level) : (set .led l s).rx = s.rx := rfl
@[simp] theorem set_led_cmd (l : Level) : (set .led l s).cmd = s.cmd := rfl
@[simp] theorem set_led_smp (l : Level) : (set .led l s).smp = s.smp := rfl
@[simp] theorem set_led_drawn (l : Level) : (set .led l s).drawn = s.drawn := rfl
@[simp] theorem set_led_trace (l : Level) : (set .led l s).trace = s.trace ++ [.lvl .led l] := rfl

/-! `memWrite a v s` -/

@[simp] theorem memWrite_mode (a : BitVec 11) (v : Byte) : (memWrite a v s).mode = s.mode := rfl
@[simp] theorem memWrite_programMode (a : BitVec 11) (v : Byte) : (memWrite a v s).programMode = s.programMode := rfl
@[simp] theorem memWrite_respLen (a : BitVec 11) (v : Byte) : (memWrite a v s).respLen = s.respLen := rfl
@[simp] theorem memWrite_respBuf (a : BitVec 11) (v : Byte) : (memWrite a v s).respBuf = s.respBuf.insert a.toNat v := rfl
@[simp] theorem memWrite_pstate (a : BitVec 11) (v : Byte) : (memWrite a v s).pstate = s.pstate := rfl
@[simp] theorem memWrite_dirCLK (a : BitVec 11) (v : Byte) : (memWrite a v s).dirCLK = s.dirCLK := rfl
@[simp] theorem memWrite_dirDATA (a : BitVec 11) (v : Byte) : (memWrite a v s).dirDATA = s.dirDATA := rfl
@[simp] theorem memWrite_lvlCLK (a : BitVec 11) (v : Byte) : (memWrite a v s).lvlCLK = s.lvlCLK := rfl
@[simp] theorem memWrite_lvlDATA (a : BitVec 11) (v : Byte) : (memWrite a v s).lvlDATA = s.lvlDATA := rfl
@[simp] theorem memWrite_lvlPGM_EN (a : BitVec 11) (v : Byte) : (memWrite a v s).lvlPGM_EN = s.lvlPGM_EN := rfl
@[simp] theorem memWrite_lvlLED (a : BitVec 11) (v : Byte) : (memWrite a v s).lvlLED = s.lvlLED := rfl
@[simp] theorem memWrite_rx (a : BitVec 11) (v : Byte) : (memWrite a v s).rx = s.rx := rfl
@[simp] theorem memWrite_cmd (a : BitVec 11) (v : Byte) : (memWrite a v s).cmd = s.cmd := rfl
@[simp] theorem memWrite_smp (a : BitVec 11) (v : Byte) : (memWrite a v s).smp = s.smp := rfl
@[simp] theorem memWrite_drawn (a : BitVec 11) (v : Byte) : (memWrite a v s).drawn = s.drawn := rfl
@[simp] theorem memWrite_trace (a : BitVec 11) (v : Byte) : (memWrite a v s).trace = s.trace := rfl

/-! `setRespLen n s` -/

@[simp] theorem setRespLen_mode (n : Nat) : (setRespLen n s).mode = s.mode := rfl
@[simp] theorem setRespLen_programMode (n : Nat) : (setRespLen n s).programMode = s.programMode := rfl
@[simp] theorem setRespLen_respLen (n : Nat) : (setRespLen n s).respLen = BitVec.ofNat 16 (2 * n) := rfl
@[simp] theorem setRespLen_respBuf (n : Nat) : (setRespLen n s).respBuf = s.respBuf := rfl
@[simp] theorem setRespLen_pstate (n : Nat) : (setRespLen n s).pstate = s.pstate := rfl
@[simp] theorem setRespLen_dirCLK (n : Nat) : (setRespLen n s).dirCLK = s.dirCLK := rfl
@[simp] theorem setRespLen_dirDATA (n : Nat) : (setRespLen n s).dirDATA = s.dirDATA := rfl
@[simp] theorem setRespLen_lvlCLK (n : Nat) : (setRespLen n s).lvlCLK = s.lvlCLK := rfl
@[simp] theorem setRespLen_lvlDATA (n : Nat) : (setRespLen n s).lvlDATA = s.lvlDATA := rfl
@[simp] theorem setRespLen_lvlPGM_EN (n : Nat) : (setRespLen n s).lvlPGM_EN = s.lvlPGM_EN := rfl
@[simp] theorem setRespLen_lvlLED (n : Nat) : (setRespLen n s).lvlLED = s.lvlLED := rfl
@[simp] theorem setRespLen_rx (n : Nat) : (setRespLen n s).rx = s.rx := rfl
@[simp] theorem setRespLen_cmd (n : Nat) : (setRespLen n s).cmd = s.cmd := rfl
@[simp] theorem setRespLen_smp (n : Nat) : (setRespLen n s).smp = s.smp := rfl
@[simp] theorem setRespLen_drawn (n : Nat) : (setRespLen n s).drawn = s.drawn := rfl
@[simp] theorem setRespLen_trace (n : Nat) : (setRespLen n s).trace = s.trace := rfl

/-! `setPState p s` -/

@[simp] theorem setPState_mode (p : PState) : (setPState p s).mode = s.mode := rfl
@[simp] theorem setPState_programMode (p : PState) : (setPState p s).programMode = s.programMode := rfl
@[simp] theorem setPState_respLen (p : PState) : (setPState p s).respLen = s.respLen := rfl
@[simp] theorem setPState_respBuf (p : PState) : (setPState p s).respBuf = s.respBuf := rfl
@[simp] theorem setPState_pstate (p : PState) : (setPState p s).pstate = p := rfl
@[simp] theorem setPState_dirCLK (p : PState) : (setPState p s).dirCLK = s.dirCLK := rfl
@[simp] theorem setPState_dirDATA (p : PState) : (setPState p s).dirDATA = s.dirDATA := rfl
@[simp] theorem setPState_lvlCLK (p : PState) : (setPState p s).lvlCLK = s.lvlCLK := rfl
@[simp] theorem setPState_lvlDATA (p : PState) : (setPState p s).lvlDATA = s.lvlDATA := rfl
@[simp] theorem setPState_lvlPGM_EN (p : PState) : (setPState p s).lvlPGM_EN = s.lvlPGM_EN := rfl
@[simp] theorem setPState_lvlLED (p : PState) : (setPState p s).lvlLED = s.lvlLED := rfl
@[simp] theorem setPState_rx (p : PState) : (setPState p s).rx = s.rx := rfl
@[simp] theorem setPState_cmd (p : PState) : (setPState p s).cmd = s.cmd := rfl
@[simp] theorem setPState_smp (p : PState) : (setPState p s).smp = s.smp := rfl
@[simp] theorem setPState_drawn (p : PState) : (setPState p s).drawn = s.drawn := rfl
@[simp] theorem setPState_trace (p : PState) : (setPState p s).trace = s.trace := rfl

/-! `setMode m s` -/

@[simp] theorem setMode_mode (m : Mode) : (setMode m s).mode = m := rfl
@[simp] theorem setMode_programMode (m : Mode) : (setMode m s).programMode = s.programMode := rfl
@[simp] theorem setMode_respLen (m : Mode) : (setMode m s).respLen = s.respLen := rfl
@[simp] theorem setMode_respBuf (m : Mode) : (setMode m s).respBuf = s.respBuf := rfl
@[simp] theorem setMode_pstate (m : Mode) : (setMode m s).pstate = s.pstate := rfl
@[simp] theorem setMode_dirCLK (m : Mode) : (setMode m s).dirCLK = s.dirCLK := rfl
@[simp] theorem setMode_dirDATA (m : Mode) : (setMode m s).dirDATA = s.dirDATA := rfl
@[simp] theorem setMode_lvlCLK (m : Mode) : (setMode m s).lvlCLK = s.lvlCLK := rfl
@[simp] theorem setMode_lvlDATA (m : Mode) : (setMode m s).lvlDATA = s.lvlDATA := rfl
@[simp] theorem setMode_lvlPGM_EN (m : Mode) : (setMode m s).lvlPGM_EN = s.lvlPGM_EN := rfl
@[simp] theorem setMode_lvlLED (m : Mode) : (setMode m s).lvlLED = s.lvlLED := rfl
@[simp] theorem setMode_rx (m : Mode) : (setMode m s).rx = s.rx := rfl
@[simp] theorem setMode_cmd (m : Mode) : (setMode m s).cmd = s.cmd := rfl
@[simp] theorem setMode_smp (m : Mode) : (setMode m s).smp = s.smp := rfl
@[simp] theorem setMode_drawn (m : Mode) : (setMode m s).drawn = s.drawn := rfl
@[simp] theorem setMode_trace (m : Mode) : (setMode m s).trace = s.trace := rfl

/-! `setProgramMode b s` -/

@[simp] theorem setProgramMode_mode (b : Bool) : (setProgramMode b s).mode = s.mode := rfl
@[simp] theorem setProgramMode_programMode (b : Bool) : (setProgramMode b s).programMode = b := rfl
@[simp] theorem setProgramMode_respLen (b : Bool) : (setProgramMode b s).respLen = s.respLen := rfl
@[simp] theorem setProgramMode_respBuf (b : Bool) : (setProgramMode b s).respBuf = s.respBuf := rfl
@[simp] theorem setProgramMode_pstate (b : Bool) : (setProgramMode b s).pstate = s.pstate := rfl
@[simp] theorem setProgramMode_dirCLK (b : Bool) : (setProgramMode b s).dirCLK = s.dirCLK := rfl
@[simp] theorem setProgramMode_dirDATA (b : Bool) : (setProgramMode b s).dirDATA = s.dirDATA := rfl
@[simp] theorem setProgramMode_lvlCLK (b : Bool) : (setProgramMode b s).lvlCLK = s.lvlCLK := rfl
@[simp] theorem setProgramMode_lvlDATA (b : Bool) : (setProgramMode b s).lvlDATA = s.lvlDATA := rfl
@[simp] theorem setProgramMode_lvlPGM_EN (b : Bool) : (setProgramMode b s).lvlPGM_EN = s.lvlPGM_EN := rfl
@[simp] theorem setProgramMode_lvlLED (b : Bool) : (setProgramMode b s).lvlLED = s.lvlLED := rfl
@[simp] theorem setProgramMode_rx (b : Bool) : (setProgramMode b s).rx = s.rx := rfl
@[simp] theorem setProgramMode_cmd (b : Bool) : (setProgramMode b s).cmd = s.cmd := rfl
@[simp] theorem setProgramMode_smp (b : Bool) : (setProgramMode b s).smp = s.smp := rfl
@[simp] theorem setProgramMode_drawn (b : Bool) : (setProgramMode b s).drawn = s.drawn := rfl
@[simp] theorem setProgramMode_trace (b : Bool) : (setProgramMode b s).trace = s.trace := rfl

/-! `afterSamples k s` -/

@[simp] theorem afterSamples_mode (k : Nat) : (afterSamples k s).mode = s.mode := rfl
@[simp] theorem afterSamples_programMode (k : Nat) : (afterSamples k s).programMode = s.programMode := rfl
@[simp] theorem afterSamples_respLen (k : Nat) : (afterSamples k s).respLen = s.respLen := rfl
@[simp] theorem afterSamples_respBuf (k : Nat) : (afterSamples k s).respBuf = s.respBuf := rfl
@[simp] theorem afterSamples_pstate (k : Nat) : (afterSamples k s).pstate = s.pstate := rfl
@[simp] theorem afterSamples_dirCLK (k : Nat) : (afterSamples k s).dirCLK = s.dirCLK := rfl
@[simp] theorem afterSamples_dirDATA (k : Nat) : (afterSamples k s).dirDATA = s.dirDATA := rfl
@[simp] theorem afterSamples_lvlCLK (k : Nat) : (afterSamples k s).lvlCLK = s.lvlCLK := rfl
@[simp] theorem afterSamples_lvlDATA (k : Nat) : (afterSamples k s).lvlDATA = s.lvlDATA := rfl
@[simp] theorem afterSamples_lvlPGM_EN (k : Nat) : (afterSamples k s).lvlPGM_EN = s.lvlPGM_EN := rfl
@[simp] theorem afterSamples_lvlLED (k : Nat) : (afterSamples k s).lvlLED = s.lvlLED := rfl
@[simp] theorem afterSamples_rx (k : Nat) : (afterSamples k s).rx = s.rx := rfl
@[simp] theorem afterSamples_cmd (k : Nat) : (afterSamples k s).cmd = s.cmd := rfl
@[simp] theorem afterSamples_smp (k : Nat) : (afterSamples k s).smp = s.smp.drop k := rfl
@[simp] theorem afterSamples_drawn (k : Nat) : (afterSamples k s).drawn = s.drawn + (k - s.smp.length) := rfl
@[simp] theorem afterSamples_trace (k : Nat) : (afterSamples k s).trace = s.trace := rfl

theorem levelOf_true : levelOf true = .high := rfl

theorem levelOf_false : levelOf false = .low := rfl

theorem levelOf_beq_high (b : Bit) : (levelOf b == .high) = b := by cases b <;> rfl

end Sys2Proof.Machine
end

