-- ==== Sys2Proof/Laws/Engine.lean ====
section
/-! SUPPORT. What the engine's primitives do, said once: samples, `send` and `readBits`. -/

namespace Sys2Proof.Machine

/-! ### Samples -/

@[simp] theorem nextSamples_zero (s : State) : nextSamples 0 s = [] := by simp [nextSamples]

@[simp] theorem afterSamples_zero (s : State) : afterSamples 0 s = s := by simp [afterSamples]

theorem length_nextSamples (k : Nat) (s : State) : (nextSamples k s).length = k := by
  simp [nextSamples]; omega

/-- The samples to come depend on the target's levels and on the counter alone. -/
theorem nextSamples_congr {s t : State} (h : s.smp = t.smp) (h' : s.drawn = t.drawn) (k : Nat) :
    nextSamples k s = nextSamples k t := by
  simp [nextSamples, h, h']

theorem nextSamples_add (j k : Nat) (s : State) :
    nextSamples (j + k) s = nextSamples j s ++ nextSamples k (afterSamples j s) := by
  simp only [nextSamples, afterSamples_smp, afterSamples_drawn, List.length_drop]
  rcases Nat.le_total j s.smp.length with h | h
  · rw [List.take_add, show j - s.smp.length = 0 by omega]
    simp only [List.range_zero, List.map_nil, List.append_nil, List.append_assoc, Nat.add_zero]
    congr 2
    rw [show j + k - s.smp.length = k - (s.smp.length - j) by omega]
  · rw [List.take_of_length_le (by omega), List.take_of_length_le h, List.drop_of_length_le h,
      show s.smp.length - j = 0 by omega, show j + k - s.smp.length = (j - s.smp.length) + k by omega, List.range_add]
    simp [Nat.add_assoc]

theorem afterSamples_add (j k : Nat) (s : State) : afterSamples k (afterSamples j s) = afterSamples (j + k) s := by
  simp only [afterSamples, List.drop_drop, List.length_drop]
  congr 1
  omega

theorem sample_eq (s : State) :
    sample s = ((nextSamples 1 s).headD false, emit [.smp ((nextSamples 1 s).headD false)] (afterSamples 1 s)) := by
  unfold sample
  cases h : s.smp with
  | nil => simp [nextSamples, afterSamples, h, emit]
  | cons b bs => simp [nextSamples, afterSamples, h, emit]

/-! ### `send` -/

theorem shiftCycle_eq (b : Bit) (s : State) :
    shiftCycle b s = { s with lvlCLK := .low, lvlDATA := levelOf b, trace := s.trace ++ sendCycle b } := by
  simp [shiftCycle, sendCycle, set, wait, emit]

theorem shiftOut_trace (v : BitVec 64) (k i : Nat) (s : State) :
    (shiftOut v k i s).trace = s.trace ++ ((List.range k).map fun j => v.getLsbD (i + j)).flatMap sendCycle := by
  induction k generalizing i s with
  | zero => simp [shiftOut]
  | succ k ih =>
    rw [shiftOut, ih, shiftCycle_eq, List.range_succ_eq_map]
    simp [List.flatMap_cons, List.map_map, Function.comp_def, Nat.add_comm, Nat.add_left_comm]

/-- After some cycles CLOCK is LOW; what else differs is DATA and the trace. -/
theorem shiftOut_eq (v : BitVec 64) (k i : Nat) (s : State) :
    shiftOut v (k + 1) i s =
      { s with lvlCLK := .low, lvlDATA := levelOf (v.getLsbD (i + k)), trace := (shiftOut v (k + 1) i s).trace } := by
  induction k generalizing i s with
  | zero => rw [shiftOut, shiftOut, shiftCycle_eq]; rfl
  | succ k ih =>
    rw [shiftOut, ih, shiftCycle_eq]
    simp [Nat.add_comm, Nat.add_left_comm]

/-- `send` inside its domain completes, with CLOCK and DATA left LOW (R103, R104). -/
theorem send_ok {n : Nat} (h : 6 ≤ n) (h' : n ≤ 33) (v : BitVec 64) (s : State) :
    send v n s = .ok { s with
      lvlCLK := .low, lvlDATA := .low, trace := s.trace ++ sendTrace ((List.range n).map v.getLsbD) } := by
  obtain ⟨k, rfl⟩ : ∃ k, n = k + 1 := ⟨n - 1, by omega⟩
  rw [send, if_neg (by simp only [Config.sendMin, Config.sendMax]; omega), shiftOut_eq, shiftOut_trace]
  simp [set, wait, emit, sendTrace, List.append_assoc]

/-- `send` outside its domain has no meaning (R101, R103). -/
theorem send_fault {n : Nat} (h : n < 6 ∨ 33 < n) (v : BitVec 64) (s : State) :
    send v n s = .error (.engineSendWidth n) := by
  rw [send, if_pos h]

/-- A value wider than its transfer sends its low bits. -/
theorem map_getLsbD_eq_wireBits {n : Nat} (v : BitVec 64) (p : BitVec n) (h : ∀ i < n, v.getLsbD i = p.getLsbD i) :
    (List.range n).map v.getLsbD = wireBits p :=
  List.map_congr_left fun i hi => h i (List.mem_range.1 hi)

theorem send_value {n : Nat} (h : 6 ≤ n) (h' : n ≤ 33) {v : BitVec 64} {p : BitVec n}
    (hv : ∀ i < n, v.getLsbD i = p.getLsbD i) (s : State) :
    send v n s = .ok { s with lvlCLK := .low, lvlDATA := .low, trace := s.trace ++ sendTrace (wireBits p) } := by
  rw [send_ok h h', map_getLsbD_eq_wireBits v p hv]

/-! ### `readBits` -/

/-- The window after a sample. -/
def pushSample (sr : Word16) (b : Bit) : Word16 := (sr >>> 1) ||| ((BitVec.ofBool b).setWidth 16 <<< 15)

theorem sampleCycle_eq (sr : Word16) (s : State) :
    sampleCycle sr s =
      (pushSample sr ((nextSamples 1 s).headD false),
       { afterSamples 1 s with
          lvlCLK := .low, trace := s.trace ++ readCycle ((nextSamples 1 s).headD false) }) := by
  have h : nextSamples 1 (wait .tBit (set .clock .high s)) = nextSamples 1 s := nextSamples_congr rfl rfl 1
  simp only [sampleCycle, sample_eq, h]
  simp [pushSample, readCycle, set, wait, emit, afterSamples]

/-- The next `k + 1` samples, the first apart. -/
theorem nextSamples_succ (k : Nat) (s : State) :
    nextSamples (k + 1) s = (nextSamples 1 s).headD false :: nextSamples k (afterSamples 1 s) := by
  rw [Nat.add_comm, nextSamples_add]
  have := length_nextSamples 1 s
  match h : nextSamples 1 s with
  | [b] => rfl
  | [] => simp [h] at this
  | _ :: _ :: _ => simp [h] at this

theorem shiftIn_fst (k : Nat) (sr : Word16) (s : State) :
    (shiftIn k sr s).1 = (nextSamples k s).foldl pushSample sr := by
  induction k generalizing sr s with
  | zero => simp [shiftIn]
  | succ k ih =>
    rw [nextSamples_succ, shiftIn, sampleCycle_eq, ih]
    rfl

theorem shiftIn_snd (k : Nat) (sr : Word16) (s : State) :
    (shiftIn (k + 1) sr s).2 =
      { afterSamples (k + 1) s with
        lvlCLK := .low
        trace := s.trace ++ (nextSamples (k + 1) s).flatMap readCycle } := by
  induction k generalizing sr s with
  | zero =>
    rw [nextSamples_succ, shiftIn, sampleCycle_eq]
    simp [shiftIn]
  | succ k ih =>
    have h := afterSamples_add 1 (k + 1) s
    rw [Nat.add_comm 1] at h
    rw [nextSamples_succ (k + 1), shiftIn, sampleCycle_eq, ih, ← h]
    simp only [List.flatMap_cons, ← List.append_assoc]
    rfl

/-- The window after some samples: the samples are at its top, what it held has moved down (R106, R107). -/
theorem getLsbD_window (sr : Word16) (bs : List Bit) (h : bs.length ≤ 16) (i : Nat) (hi : i < 16) :
    (bs.foldl pushSample sr).getLsbD i =
      if i + bs.length < 16 then sr.getLsbD (i + bs.length) else bs.getD (i + bs.length - 16) false := by
  induction bs generalizing sr with
  | nil => simp [hi]
  | cons b bs ih =>
    simp only [List.length_cons] at h ⊢
    rw [List.foldl_cons, ih _ (by omega)]
    have key : ∀ j, (pushSample sr b).getLsbD j = if j = 15 then b else sr.getLsbD (j + 1) := by
      intro j
      simp only [pushSample, BitVec.getLsbD_or, BitVec.getLsbD_ushiftRight, BitVec.getLsbD_shiftLeft,
        BitVec.getLsbD_setWidth, BitVec.getLsbD_ofBool]
      rcases Nat.lt_trichotomy j 15 with hj | hj | hj
      · simp [hj, Nat.add_comm, show j ≠ 15 by omega]
      · subst hj
        simp
      · simp [show ¬ j < 16 by omega, show j ≠ 15 by omega, Nat.add_comm]
    rcases Nat.lt_trichotomy (i + bs.length) 15 with hj | hj | hj
    · rw [if_pos (by omega), if_pos (by omega), key, if_neg (by omega), Nat.add_assoc]
    · rw [if_pos (by omega), if_neg (by omega), key, if_pos hj, show i + (bs.length + 1) - 16 = 0 by omega]
      rfl
    · rw [if_neg (by omega), if_neg (by omega), show i + (bs.length + 1) - 16 = (i + bs.length - 16) + 1 by omega]
      rfl

/-- The shift and the mask of the full window give the 14 samples between the start and the stop sample (R107). -/
theorem window_word (bs : List Bit) (h : bs.length = 16) :
    (((bs.foldl pushSample 0) >>> 1) &&& Config.wordMask).setWidth 14 = wordOfSamples bs := by
  apply BitVec.eq_of_getLsbD_eq
  intro i hi
  have hm : Config.wordMask.getLsbD i = true := by
    revert i
    decide
  rw [BitVec.getLsbD_setWidth, BitVec.getLsbD_and, hm, BitVec.getLsbD_ushiftRight, wordOfSamples, getLsbD_ofWireBits,
    getLsbD_window _ _ (by omega) _ (by omega), h, if_neg (by omega)]
  simp [hi, List.getD_eq_getElem?_getD, Nat.add_comm 1 i]

/-- `readBits(16)` completes, and says which word it returns (R106, R107). -/
theorem readBits_ok (s : State) :
    readBits 16 s = .ok (wordOfSamples (nextSamples 16 s), { afterSamples 16 s with
      dirDATA := .out, lvlCLK := .low, lvlDATA := .low, trace := s.trace ++ readTrace (nextSamples 16 s) }) := by
  have h : nextSamples 16 (dir .data .inp s) = nextSamples 16 s := nextSamples_congr rfl rfl 16
  rw [readBits, if_neg (by simp)]
  simp only [shiftIn_fst, shiftIn_snd, h, window_word _ (length_nextSamples 16 s)]
  simp [dir, set, emit, readTrace, afterSamples, List.append_assoc]

/-- `readBits` of another count has no meaning (R101, R106). -/
theorem readBits_fault {n : Nat} (h : n ≠ 16) (s : State) : readBits n s = .error (.engineReadWidth n) := by
  rw [readBits, if_pos h]

end Sys2Proof.Machine
end

