-- ==== Sys2Proof/Laws/Fetch.lean ====
section
/-! SUPPORT. What one poll can find and what one step can do, said once. -/

namespace Sys2Proof.Machine

/-- What taking a byte can come to (R152, R159). -/
theorem takeByte_cases (b : Byte) (s : State) :
    (∃ op, s.pstate = .arg1 op ∧ takeByte b s = .consumed (setPState (.arg2 op b) s)) ∨
    (∃ op lo, s.pstate = .arg2 op lo ∧ takeByte b s = .run (op.instr (le16 lo b)) (setPState .idle s)) ∨
    (∃ op, s.pstate = .idle ∧ decodeFirst b = .args op ∧ takeByte b s = .consumed (setPState (.arg1 op) s)) ∨
    (∃ i, s.pstate = .idle ∧ decodeFirst b = .whole i ∧ takeByte b s = .run i s) := by
  unfold takeByte
  split
  · rename_i op h
    exact .inl ⟨op, h, rfl⟩
  · rename_i op lo h
    exact .inr (.inl ⟨op, lo, h, rfl⟩)
  · rename_i h
    split
    · rename_i op h'
      exact .inr (.inr (.inl ⟨op, h, h', rfl⟩))
    · rename_i i h'
      exact .inr (.inr (.inr ⟨i, h, h', rfl⟩))

/-- What taking an event can come to (R180, R198). -/
theorem takeEvent_cases (e : CmdEvent) (s : State) :
    (∃ i, decodeEvent e = .ok i ∧ takeEvent e s = .run i s) ∨
    (∃ err, decodeEvent e = .error err ∧ takeEvent e s = .consumed s) := by
  unfold takeEvent
  split
  · rename_i i h
    exact .inl ⟨i, h, rfl⟩
  · rename_i err h
    exact .inr ⟨err, h, rfl⟩

/-- Everything a poll can find: nothing in one of the two idle ports, or one input unit taken (R150, R151). -/
theorem fetch_cases (s : State) :
    (s.mode = .interactive ∧ s.cmd = [] ∧ fetch s = .hold) ∨
    (∃ e es, s.mode = .interactive ∧ s.cmd = e :: es ∧ fetch s = takeEvent e { s with cmd := es }) ∨
    (s.mode = .binary ∧ s.rx = [] ∧ fetch s = .hold) ∨
    (∃ b bs, s.mode = .binary ∧ s.rx = b :: bs ∧ fetch s = takeByte b { s with rx := bs }) := by
  rcases hm : s.mode with _ | _
  · rcases hc : s.cmd with _ | ⟨e, es⟩
    · exact .inl ⟨rfl, rfl, by simp [fetch, hm, hc]⟩
    · exact .inr (.inl ⟨e, es, rfl, rfl, by simp [fetch, hm, hc]⟩)
  · rcases hr : s.rx with _ | ⟨b, bs⟩
    · exact .inr (.inr (.inl ⟨rfl, rfl, by simp [fetch, hm, hr]⟩))
    · exact .inr (.inr (.inr ⟨b, bs, rfl, rfl, by simp [fetch, hm, hr]⟩))

/-- Everything a step that answers a next state can have done. -/
theorem step_cases {s t : State} (h : step s = .next t) :
    (fetch s = .hold ∧ t = s) ∨ fetch s = .consumed t ∨ ∃ i u, fetch s = .run i u ∧ exec i u = .next t := by
  unfold step at h
  split at h
  · rename_i hf
    exact .inl ⟨hf, (Host.Outcome.next.inj h).symm⟩
  · rename_i u hf
    exact .inr (.inl (Host.Outcome.next.inj h ▸ hf))
  · rename_i i u hf
    exact .inr (.inr ⟨i, u, hf, h⟩)

theorem step_of_hold {s : State} (h : fetch s = .hold) : step s = .next s := by simp [step, h]

theorem step_of_consumed {s t : State} (h : fetch s = .consumed t) : step s = .next t := by simp [step, h]

theorem step_of_run {s t : State} {i : Instr} (h : fetch s = .run i t) : step s = exec i t := by simp [step, h]

end Sys2Proof.Machine
end

