-- ==== Sys2Proof/Laws/Memory.lean ====
section
/-! SUPPORT. The response buffer: read after write, the canonical form, and what a word's two writes do. -/

namespace Sys2Proof.Machine

theorem Memory.lookup_insert_same (m : Memory) (a : Nat) (v : Byte) : (m.insert a v).lookup a = some v := by
  induction m with
  | nil => simp [Memory.insert, Memory.lookup]
  | cons c m ih =>
    obtain ⟨k, x⟩ := c
    unfold Memory.insert
    split
    · simp [Memory.lookup]
    · split
      · simp [Memory.lookup]
      · rename_i h
        simp [Memory.lookup, Ne.symm h, ih]

theorem Memory.lookup_insert_other (m : Memory) {a b : Nat} (v : Byte) (h : b ≠ a) :
    (m.insert a v).lookup b = m.lookup b := by
  induction m with
  | nil => simp [Memory.insert, Memory.lookup, h.symm]
  | cons c m ih =>
    obtain ⟨k, x⟩ := c
    unfold Memory.insert
    split
    · simp [Memory.lookup, h.symm]
    · split
      · rename_i e
        subst e
        simp [Memory.lookup, h.symm]
      · simp [Memory.lookup, ih]

/-- A cell of the memory after a write is the written one or was there before. -/
theorem Memory.mem_insert {m : Memory} {a : Nat} {v : Byte} {c : Host.Cell} (h : c ∈ m.insert a v) :
    c = (a, v) ∨ c ∈ m := by
  induction m with
  | nil => simpa [Memory.insert] using h
  | cons d m ih =>
    obtain ⟨k, x⟩ := d
    unfold Memory.insert at h
    split at h
    · simpa using h
    · split at h
      · rcases List.mem_cons.1 h with h | h
        · exact .inl h
        · exact .inr (.tail _ h)
      · rcases List.mem_cons.1 h with h | h
        · exact .inr (h ▸ .head _)
        · exact (ih h).imp id (.tail _)

theorem Memory.insert_pairwise {m : Memory} {a : Nat} {v : Byte} (h : m.Pairwise fun c d => c.1 < d.1) :
    (m.insert a v).Pairwise fun c d => c.1 < d.1 := by
  induction m with
  | nil => simp [Memory.insert]
  | cons d m ih =>
    obtain ⟨k, x⟩ := d
    obtain ⟨hk, hm⟩ := List.pairwise_cons.1 h
    unfold Memory.insert
    split
    · rename_i hlt
      refine List.pairwise_cons.2 ⟨fun c hc => ?_, h⟩
      rcases List.mem_cons.1 hc with rfl | hc
      · exact hlt
      · exact lt_trans hlt (hk c hc)
    · split
      · rename_i e
        subst e
        exact List.pairwise_cons.2 ⟨hk, hm⟩
      · refine List.pairwise_cons.2 ⟨fun c hc => ?_, ih hm⟩
        rcases Memory.mem_insert hc with rfl | hc
        · simp only; omega
        · exact hk c hc

/-- A write inside the buffer keeps the canonical form. -/
theorem Memory.insert_wf {m : Memory} {a : Nat} {v : Byte} (h : m.wf) (ha : a < Config.respCap) :
    (m.insert a v).wf :=
  ⟨Memory.insert_pairwise h.1, fun _ hc => (Memory.mem_insert hc).elim (fun e => e ▸ ha) (h.2 _)⟩

/-- Every write of the model is inside the buffer, since an offset is 11 bits. -/
theorem memWrite_wf {s : State} (a : BitVec 11) (v : Byte) (h : s.respBuf.wf) : (memWrite a v s).respBuf.wf :=
  Memory.insert_wf h a.isLt

theorem reset_wf : State.reset.respBuf.wf := by decide

theorem memRead_of_lookup {s : State} {a : BitVec 11} {v : Byte} (h : s.respBuf.lookup a.toNat = some v) :
    memRead a s = .ok v := by
  simp [memRead, h]

/-! ### Words -/

/-- The memory with the two bytes of a word written. -/
def Memory.insertWord (i : Nat) (w : Word14) (m : Memory) : Memory :=
  (m.insert (2 * i) (lo8 (w.setWidth 16))).insert (2 * i + 1) (hi8 (w.setWidth 16))

/-- Inside the buffer an offset's 11 bits are the offset. -/
theorem offset_toNat {a : Nat} (h : a < 2048) : (BitVec.ofNat 11 a).toNat = a := by
  simp [BitVec.toNat_ofNat]; omega

theorem writeWord_eq {i : Nat} (hi : i < 1024) (w : Word14) (s : State) :
    writeWord i w s = { s with respBuf := s.respBuf.insertWord i w } := by
  simp only [writeWord, memWrite, Memory.insertWord]
  rw [offset_toNat (by omega), offset_toNat (by omega)]

theorem Memory.insertWord_lookup_lo (i : Nat) (w : Word14) (m : Memory) :
    (m.insertWord i w).lookup (2 * i) = some (lo8 (w.setWidth 16)) := by
  rw [Memory.insertWord, Memory.lookup_insert_other _ _ (by omega), Memory.lookup_insert_same]

theorem Memory.insertWord_lookup_hi (i : Nat) (w : Word14) (m : Memory) :
    (m.insertWord i w).lookup (2 * i + 1) = some (hi8 (w.setWidth 16)) :=
  Memory.lookup_insert_same _ _ _

theorem Memory.insertWord_lookup_other {i a : Nat} (w : Word14) (m : Memory) (h : a ≠ 2 * i) (h' : a ≠ 2 * i + 1) :
    (m.insertWord i w).lookup a = m.lookup a := by
  rw [Memory.insertWord, Memory.lookup_insert_other _ _ h', Memory.lookup_insert_other _ _ h]

theorem Memory.insertWord_wf {i : Nat} {w : Word14} {m : Memory} (hi : i < 1024) (h : m.wf) :
    (m.insertWord i w).wf :=
  Memory.insert_wf (Memory.insert_wf h (by simp only [Config.respCap]; omega)) (by simp only [Config.respCap]; omega)

/-- Bits 7 and 6 of the high byte of a program word are 0 (R46). -/
theorem hi8_word_lt (w : Word14) : (hi8 (w.setWidth 16)).toNat < 64 := by
  have := w.isLt
  simp [hi8, BitVec.extractLsb'_toNat, Nat.shiftRight_eq_div_pow]
  omega

end Sys2Proof.Machine
end

