-- ==== Sys2Proof/Laws/Sequencer.lean ====
section
/-! SUPPORT. What each operation of the sequencer does, said once: none has another outcome than completion (R136). -/

namespace Sys2Proof.Machine

@[simp] theorem ok_bind {ε α β : Type} (a : α) (f : α → Except ε β) : (Except.ok a >>= f) = f a := rfl

@[simp] theorem finish_ok (s : State) : finish (.ok s) = .next s := rfl

@[simp] theorem finish_pure (s : State) : finish (pure s) = .next s := rfl

/-- What a transfer leaves of the pins: CLOCK and DATA LOW. The events are given. -/
def sent (es : List Event) (s : State) : State :=
  { s with lvlCLK := .low, lvlDATA := .low, trace := s.trace ++ es }

theorem sent_sent (es es' : List Event) (s : State) : sent es' (sent es s) = sent (es ++ es') s := by
  simp [sent, List.append_assoc]

theorem wait_sent (t : Duration) (es : List Event) (s : State) : wait t (sent es s) = sent (es ++ [.wait t]) s := by
  simp [sent, wait, emit, List.append_assoc]

theorem cmd_ok (c : BitVec 6) (s : State) : cmd c s = .ok (sent (cmdTrace c) s) :=
  send_value (by decide) (by decide) (fun i hi => by simp [show i < 64 by simp only [Config.cmdBits] at hi; omega]) s

theorem cmdThenWait_ok (c : BitVec 6) (t : Duration) (s : State) :
    cmdThenWait c t s = .ok (sent (cmdTrace c ++ [.wait t]) s) := by
  rw [cmdThenWait, cmd_ok, ok_bind, wait_sent]
  rfl

theorem resetAddress_ok (s : State) : resetAddress s = .ok (sent (cmdTrace 0x16) s) := cmd_ok _ s

theorem incAddress_ok (s : State) : incAddress s = .ok (sent (cmdTrace 0x06) s) := cmd_ok _ s

theorem eraseRow_ok (s : State) : eraseRow s = .ok (sent (cmdTrace 0x11 ++ [.wait .tEraseRow]) s) :=
  cmdThenWait_ok _ _ s

theorem eraseAll_ok (s : State) : eraseAll s = .ok (sent (cmdTrace 0x09 ++ [.wait .tEraseAll]) s) :=
  cmdThenWait_ok _ _ s

theorem beginIntProg_ok (s : State) : beginIntProg s = .ok (sent (cmdTrace 0x08 ++ [.wait .tProgInt]) s) :=
  cmdThenWait_ok _ _ s

theorem beginExtProg_ok (s : State) : beginExtProg s = .ok (sent (cmdTrace 0x18 ++ [.wait .tProgExt]) s) :=
  cmdThenWait_ok _ _ s

theorem endExtProg_ok (s : State) : endExtProg s = .ok (sent (cmdTrace 0x0A ++ [.wait .tGap]) s) :=
  cmdThenWait_ok _ _ s

/-- A code, the gap and a payload whose 16 low bits are `p`. -/
theorem load_ok (c : BitVec 6) (v : BitVec 64) (p : Word16) (h : ∀ i < 16, v.getLsbD i = p.getLsbD i) (s : State) :
    (cmd c s >>= fun s => send v Config.payloadBits (wait .tGap s)) = .ok (sent (loadTrace c p) s) := by
  rw [cmd_ok, ok_bind, wait_sent, send_value (by decide) (by decide) h]
  simp [sent, loadTrace, List.append_assoc]

theorem loadConfig_ok (s : State) : loadConfig s = .ok (sent (loadTrace 0x00 0) s) :=
  load_ok _ _ _ (by simp) s

theorem loadData_ok (v : Word16) (s : State) : loadData v s = .ok (sent (loadTrace 0x02 (v <<< 1)) s) :=
  load_ok _ _ _ (fun i hi => by
    simp only [BitVec.getLsbD_shiftLeft, BitVec.getLsbD_setWidth]
    simp [hi, show i < 64 by omega, show i - 1 < 64 by omega]) s

theorem enterProgramMode_ok (s : State) : enterProgramMode s = .ok { s with
    programMode := true, dirCLK := .out, dirDATA := .out, lvlCLK := .low, lvlDATA := .low, lvlPGM_EN := .low,
    trace := s.trace ++ enterTrace } := by
  have h := fun i (_ : i < 33) => show (Config.enterKey.setWidth 64).getLsbD i = Config.enterKey.getLsbD i by
    simp [BitVec.getLsbD_setWidth]; omega
  simp only [enterProgramMode]
  rw [send_value (by decide) (by decide) h, ok_bind]
  simp [pure, Except.pure, wait, setProgramMode, dir, set, emit, enterTrace]

theorem exitProgramMode_ok (s : State) : exitProgramMode s = .ok { s with
    programMode := false, dirCLK := .inp, dirDATA := .inp, lvlPGM_EN := .high, trace := s.trace ++ exitTrace } := by
  simp [exitProgramMode, wait, setProgramMode, dir, set, emit, exitTrace]

/-- What a read leaves: DATA an output, CLOCK and DATA LOW, 16 samples taken. -/
def wordRead (es : List Event) (s : State) : State :=
  { afterSamples 16 s with dirDATA := .out, lvlCLK := .low, lvlDATA := .low, trace := s.trace ++ es }

theorem readWord_ok (s : State) :
    readWord s = .ok (wordOfSamples (nextSamples 16 s), wordRead (readWordTrace (nextSamples 16 s)) s) := by
  have h : nextSamples 16 (sent (cmdTrace 0x04 ++ [.wait .tGap]) s) = nextSamples 16 s := nextSamples_congr rfl rfl 16
  rw [readWord, cmd_ok, ok_bind, wait_sent, readBits_ok, ok_bind, h]
  simp [pure, Except.pure, sent, wordRead, wait, emit, readWordTrace, afterSamples, List.append_assoc]

/-! ### The bulk read -/

/-- The memory with words written at successive indexes. -/
def Memory.insertWords : (i : Nat) → List Word14 → Memory → Memory
  | _, [], m => m
  | i, w :: ws, m => Memory.insertWords (i + 1) ws (m.insertWord i w)

theorem Memory.insertWords_lookup_other {i a : Nat} (ws : List Word14) (m : Memory)
    (h : a < 2 * i ∨ 2 * (i + ws.length) ≤ a) : (m.insertWords i ws).lookup a = m.lookup a := by
  induction ws generalizing i m with
  | nil => rfl
  | cons w ws ih =>
    simp only [List.length_cons] at h
    rw [insertWords, ih _ (by omega), insertWord_lookup_other _ _ (by omega) (by omega)]

theorem Memory.insertWords_lookup_lo {i j : Nat} (ws : List Word14) (m : Memory) (h : j < ws.length) :
    (m.insertWords i ws).lookup (2 * (i + j)) = some (lo8 (ws[j].setWidth 16)) := by
  induction ws generalizing i j m with
  | nil => simp at h
  | cons w ws ih =>
    rw [insertWords]
    cases j with
    | zero => rw [insertWords_lookup_other _ _ (by omega)]; exact insertWord_lookup_lo i w m
    | succ j =>
      have := ih (i := i + 1) (j := j) (m.insertWord i w) (by simpa using h)
      rw [show i + (j + 1) = i + 1 + j by omega, this]
      rfl

theorem Memory.insertWords_lookup_hi {i j : Nat} (ws : List Word14) (m : Memory) (h : j < ws.length) :
    (m.insertWords i ws).lookup (2 * (i + j) + 1) = some (hi8 (ws[j].setWidth 16)) := by
  induction ws generalizing i j m with
  | nil => simp at h
  | cons w ws ih =>
    rw [insertWords]
    cases j with
    | zero => rw [insertWords_lookup_other _ _ (by omega)]; exact insertWord_lookup_hi i w m
    | succ j =>
      have := ih (i := i + 1) (j := j) (m.insertWord i w) (by simpa using h)
      rw [show i + (j + 1) = i + 1 + j by omega, this]
      rfl

theorem Memory.insertWords_wf {i : Nat} (ws : List Word14) {m : Memory} (hi : i + ws.length ≤ 1024) (h : m.wf) :
    (m.insertWords i ws).wf := by
  induction ws generalizing i m with
  | nil => exact h
  | cons w ws ih =>
    simp only [List.length_cons] at hi
    exact ih (by omega) (insertWord_wf (by omega) h)

/-- A cell after the writes was there before, or its byte is the low byte at an even or the high byte at an odd address
of a word. -/
theorem Memory.mem_insertWords {i : Nat} {ws : List Word14} {m : Memory} {c : Host.Cell}
    (h : c ∈ m.insertWords i ws) : c ∈ m ∨ c.1 % 2 = 0 ∨ ∃ w : Word14, c.2 = hi8 (w.setWidth 16) := by
  induction ws generalizing i m with
  | nil => exact .inl h
  | cons w ws ih =>
    rcases ih h with h | h
    · rcases Memory.mem_insert h with rfl | h
      · exact .inr (.inr ⟨w, rfl⟩)
      · rcases Memory.mem_insert h with rfl | h
        · exact .inr (.inl (by simp))
        · exact .inl h
    · exact .inr h

theorem readOneWord_ok {i : Nat} (hi : i < 1024) (s : State) :
    readOneWord i s = .ok { wordRead (readWordTrace (nextSamples 16 s) ++ cmdTrace 0x06) s with
      respBuf := s.respBuf.insertWord i (wordOfSamples (nextSamples 16 s)) } := by
  rw [readOneWord, readWord_ok, ok_bind]
  simp only
  rw [incAddress_ok, writeWord_eq hi]
  simp [sent, wordRead, List.append_assoc]

theorem samplesAt_zero (s : State) : samplesAt s 0 = nextSamples 16 s := by simp [samplesAt]

theorem wordAt_zero (s : State) : wordAt s 0 = wordOfSamples (nextSamples 16 s) := by simp [wordAt, samplesAt_zero]

/-- Only the samples to come matter for the words of a bulk read. -/
theorem samplesAt_congr {s t : State} (h : s.smp = t.smp) (h' : s.drawn = t.drawn) (i : Nat) :
    samplesAt s i = samplesAt t i :=
  nextSamples_congr (by simp [h]) (by simp [h, h']) 16

theorem wordAt_congr {s t : State} (h : s.smp = t.smp) (h' : s.drawn = t.drawn) (i : Nat) : wordAt s i = wordAt t i := by
  rw [wordAt, wordAt, samplesAt_congr h h']

theorem samplesAt_succ (s : State) (i : Nat) : samplesAt s (i + 1) = samplesAt (afterSamples 16 s) i := by
  simp only [samplesAt]
  rw [afterSamples_add, show 16 * (i + 1) = 16 + 16 * i by omega]

theorem bulkTrace_succ (k : Nat) (s : State) :
    bulkTrace (k + 1) s = readWordTrace (nextSamples 16 s) ++ cmdTrace 0x06 ++ bulkTrace k (afterSamples 16 s) := by
  simp only [bulkTrace, List.range_succ_eq_map, List.flatMap_cons, List.flatMap_map, samplesAt_zero, samplesAt_succ]

theorem bulkTrace_congr {s t : State} (h : s.smp = t.smp) (h' : s.drawn = t.drawn) (k : Nat) :
    bulkTrace k s = bulkTrace k t := by
  simp only [bulkTrace, samplesAt_congr h h']

/-- The words of a bulk read of `k` words that starts in `s`. -/
def wordsRead (k : Nat) (s : State) : List Word14 := (List.range k).map (wordAt s)

@[simp] theorem length_wordsRead (k : Nat) (s : State) : (wordsRead k s).length = k := by simp [wordsRead]

theorem wordsRead_succ (k : Nat) (s : State) :
    wordsRead (k + 1) s = wordOfSamples (nextSamples 16 s) :: wordsRead k (afterSamples 16 s) := by
  simp only [wordsRead, List.range_succ_eq_map, List.map_cons, List.map_map, wordAt_zero]
  congr 1
  exact List.map_congr_left fun i _ => by simp [wordAt, samplesAt_succ]

theorem wordsRead_congr {s t : State} (h : s.smp = t.smp) (h' : s.drawn = t.drawn) (k : Nat) :
    wordsRead k s = wordsRead k t :=
  List.map_congr_left fun i _ => wordAt_congr h h' i

/-- What `k` words of a bulk read do. -/
def wordsStored (k i : Nat) (s : State) : State :=
  { afterSamples (16 * k) s with
    dirDATA := if k = 0 then s.dirDATA else .out
    lvlCLK := if k = 0 then s.lvlCLK else .low
    lvlDATA := if k = 0 then s.lvlDATA else .low
    respBuf := s.respBuf.insertWords i (wordsRead k s)
    trace := s.trace ++ bulkTrace k s }

theorem readWords_ok (k : Nat) {i : Nat} (hi : i + k ≤ 1024) (s : State) :
    readWords k i s = .ok (wordsStored k i s) := by
  induction k generalizing i s with
  | zero => simp [readWords, wordsStored, wordsRead, bulkTrace, Memory.insertWords]
  | succ k ih =>
    rw [readWords, readOneWord_ok (by omega), ok_bind, ih (by omega)]
    simp only [wordsStored, wordsRead_succ, bulkTrace_succ, Memory.insertWords]
    rw [show 16 * (k + 1) = 16 + 16 * k by omega, ← afterSamples_add]
    simp only [wordRead, List.append_assoc]
    congr 1
    simp only [afterSamples, if_false, ite_self, Nat.succ_ne_zero, State.mk.injEq, List.append_cancel_left_eq, true_and]
    exact ⟨congrArg (fun ws => Memory.insertWords _ ws _) (wordsRead_congr rfl rfl k), bulkTrace_congr rfl rfl k⟩

/-- `readProgramMemory` completes, and says everything it does (R133). -/
theorem readProgramMemory_ok (count : Word16) (s : State) :
    readProgramMemory count s = .ok { wordsStored (clampCount count) 0 s with
      respLen := BitVec.ofNat 16 (2 * clampCount count) } := by
  rw [readProgramMemory, readWords_ok _ (by simp [clampCount])]
  rfl

theorem clampCount_le (count : Word16) : clampCount count ≤ 1024 := by simp [clampCount]

/-- `respLen` holds twice the clamped count exactly. -/
theorem respLen_toNat (count : Word16) : (BitVec.ofNat 16 (2 * clampCount count)).toNat = 2 * clampCount count := by
  have := clampCount_le count
  rw [BitVec.toNat_ofNat]
  omega

end Sys2Proof.Machine
end

