-- ==== Sys2Proof/Laws/Reply.lean ====
section
/-! SUPPORT. What the replies and the listing do, said once. -/

namespace Sys2Proof.Machine

theorem txFrame_eq (payload : List Byte) (s : State) :
    txFrame payload s = tx ([lo8 (BitVec.ofNat 16 payload.length), hi8 (BitVec.ofNat 16 payload.length)] ++ payload) s := by
  simp [txFrame, txLength, tx, emit]

/-- The ack frame is two zero bytes (R153). -/
theorem ack_eq (s : State) : ack s = emit ackTrace s := by
  rw [ack, txFrame_eq]
  rfl

/-- `k` bytes of the buffer that were all written (R160). -/
theorem txBuffer_ok {k j : Nat} {s : State} {byte : Nat → Byte} (hk : j + k ≤ 2048)
    (h : ∀ a, j ≤ a → a < j + k → s.respBuf.lookup a = some (byte a)) :
    txBuffer k j s = .ok (tx ((List.range k).map fun d => byte (j + d)) s) := by
  induction k generalizing j s with
  | zero => simp [txBuffer, tx, emit]
  | succ k ih =>
    rw [txBuffer, memRead_of_lookup (v := byte j) (by rw [offset_toNat (by omega)]; exact h j (by omega) (by omega)),
      ok_bind, ih (by omega) (fun a ha ha' => by simpa using h a (by omega) (by omega)), List.range_succ_eq_map]
    simp [tx, emit, Function.comp_def, Nat.add_assoc, Nat.add_comm 1]

/-- The DATA reply, where every byte below `respLen` was written: the length and those bytes (R72, R160). -/
theorem txResponse_ok {s : State} {byte : Nat → Byte} (hl : s.respLen.toNat ≤ 2048)
    (h : ∀ a < s.respLen.toNat, s.respBuf.lookup a = some (byte a)) :
    txResponse s = .ok (tx ([lo8 s.respLen, hi8 s.respLen] ++ (List.range s.respLen.toNat).map byte) s) := by
  rw [txResponse, txBuffer_ok (s := txLength s.respLen s) (byte := byte) (by omega) fun a _ ha => h a (by omega)]
  simp [txLength, tx, emit]

/-- A byte that was never written stops the reply (R24, R203). -/
theorem memRead_fault {a : BitVec 11} {s : State} (h : s.respBuf.lookup a.toNat = none) :
    memRead a s = .error (.unwrittenRespBuf a.toNat) := by
  simp [memRead, h]

/-- The byte at an address of a bulk read: low byte at the even, high byte at the odd address (R46). -/
def byteAt (word : Nat → Word14) (a : Nat) : Byte :=
  if a % 2 = 0 then lo8 ((word (a / 2)).setWidth 16) else hi8 ((word (a / 2)).setWidth 16)

theorem insertWords_lookup_byteAt {n a : Nat} (word : Nat → Word14) (m : Memory) (h : a < 2 * n) :
    (m.insertWords 0 ((List.range n).map word)).lookup a = some (byteAt word a) := by
  have hl : a / 2 < ((List.range n).map word).length := by simp; omega
  rcases Nat.mod_two_eq_zero_or_one a with h0 | h1
  · have := Memory.insertWords_lookup_lo (i := 0) _ m hl
    rw [show 2 * (0 + a / 2) = a by omega] at this
    rw [this]
    simp [byteAt, h0]
  · have := Memory.insertWords_lookup_hi (i := 0) _ m hl
    rw [show 2 * (0 + a / 2) + 1 = a by omega] at this
    rw [this]
    simp [byteAt, h1]

theorem map_byteAt (n : Nat) (word : Nat → Word14) :
    (List.range (2 * n)).map (byteAt word) = (List.range n).flatMap fun i => wordBytes (word i) := by
  induction n with
  | zero => rfl
  | succ n ih =>
    rw [show 2 * (n + 1) = 2 * n + 1 + 1 by omega, List.range_succ, List.range_succ, List.range_succ]
    simp [ih, byteAt, wordBytes, show (2 * n + 1) % 2 = 1 by omega, show (2 * n + 1) / 2 = n by omega]

/-- The word the listing reads is the word that was stored (R46, R190). -/
theorem readBufWord_insertWords {n i : Nat} (word : Nat → Word14) {s : State} {m : Memory} (hn : n ≤ 1024) (hi : i < n)
    (hs : s.respBuf = m.insertWords 0 ((List.range n).map word)) :
    readBufWord i s = .ok ((word i).setWidth 16) := by
  have h0 : s.respBuf.lookup (2 * i) = _ := hs ▸ insertWords_lookup_byteAt word m (show 2 * i < 2 * n by omega)
  have h1 : s.respBuf.lookup (2 * i + 1) = _ := hs ▸ insertWords_lookup_byteAt word m (show 2 * i + 1 < 2 * n by omega)
  rw [readBufWord, memRead_of_lookup (by rw [offset_toNat (by omega)]; exact h0), ok_bind,
    memRead_of_lookup (by rw [offset_toNat (by omega)]; exact h1), ok_bind]
  simp only [byteAt, show 2 * i % 2 = 0 by omega, show (2 * i + 1) % 2 = 1 by omega, show 2 * i / 2 = i by omega,
    show (2 * i + 1) / 2 = i by omega, if_true, Nat.one_ne_zero, if_false, le16_lo8_hi8]
  rfl

/-- The lines of `k` words whose buffer words are known (R190). -/
theorem listWords_ok {f : ListFormat} {k i : Nat} {s : State} {word : Nat → Word16}
    (h : ∀ j, i ≤ j → j < i + k → readBufWord j s = .ok (word j)) :
    listWords f k i s = .ok (out ((List.range k).flatMap fun d =>
      hex4 f.hexUpper (word (i + d)) ++ f.wordSep ++ if (i + d + 1) % 16 = 0 then f.newline else []) s) := by
  induction k generalizing i s with
  | zero => simp [listWords, out, emit]
  | succ k ih =>
    have hb : ∀ (bs : List Byte) (j : Nat), readBufWord j (out bs s) = readBufWord j s := fun _ _ => rfl
    rw [listWords, h i (by omega) (by omega), ok_bind, ih fun j hj hj' => ?_]
    · simp only [Config.wordsPerLine, List.range_succ_eq_map, List.flatMap_cons, List.flatMap_map, Nat.add_zero]
      split <;> simp [out, emit, Nat.add_assoc, Nat.add_comm 1]
    · have := h j (by omega) (by omega)
      simp only [Config.wordsPerLine]
      split <;> exact this

/-- The whole listing, with its last line break (R190). -/
theorem listing_ok {f : ListFormat} {n : Nat} {s : State} {word : Nat → Word16}
    (h : ∀ i < n, readBufWord i s = .ok (word i)) : listing f n s = .ok (out (listingBytes f n word) s) := by
  rw [listing, listWords_ok (word := word) fun j _ hj => h j (by omega), ok_bind]
  simp only [Config.wordsPerLine, listingBytes, Nat.zero_add]
  split <;> simp [pure, Except.pure, out, emit]

end Sys2Proof.Machine
end

