-- ==== Sys2Proof/Laws/Interactive.lean ====
section
/-! SUPPORT. What the two Interactive operations that depend on open parameters do, said once, for every setting. -/

namespace Sys2Proof.Machine

/-- `l` completes, and is the load of its argument's value (R191). -/
theorem interactiveLoad_ok (wide : WideArg) (arg : Option Token) (s : State) :
    interactiveLoad wide arg s = .ok (sent (loadTrace 0x02 (argValue wide arg 0 <<< 1)) s) :=
  loadData_ok _ s

/-- `r` completes: the bulk read, and the listing of the words it read (R189, R190). -/
theorem interactiveRead_ok (wide : WideArg) (f : ListFormat) (arg : Option Token) (s : State) :
    interactiveRead wide f arg s =
      .ok (out (listingBytes f (clampCount (argValue wide arg 1)) fun i => (wordAt s i).setWidth 16)
        { wordsStored (clampCount (argValue wide arg 1)) 0 s with
          respLen := BitVec.ofNat 16 (2 * clampCount (argValue wide arg 1)) }) := by
  rw [interactiveRead, readProgramMemory_ok, ok_bind]
  simp only
  rw [respLen_toNat, Nat.mul_div_cancel_left _ (by decide)]
  exact listing_ok fun i hi => readBufWord_insertWords (wordAt s) (clampCount_le _) hi rfl

/-- At the default a parsed value counts mod 2^16 (R183). -/
theorem argValue_default {t : Token} {n : Nat} (h : parseArg t = some n) (d : Word16) :
    argValue Config.wideArgDefault (some t) d = BitVec.ofNat 16 n := by
  rw [argValue, show (some t : Option Token).bind parseArg = some n from h]
  simp only [Config.wideArgDefault]
  split <;> rfl

end Sys2Proof.Machine
end

