-- ==== Sys2Proof/Laws/PerInstr.lean ====
section
/-! SUPPORT. Per-instruction facts about the encoding: its level (R65) and its length (R67, R68, R70, R76-R79, R81). -/

namespace Sys2Proof.Laws.CodeShape

/-- The encoding level of a row of the opcode table (R65). -/
inductive Level where
  | hostByte | commandEvent | wire
  deriving DecidableEq, Repr

/-- The level of a code. -/
def levelOfCode : Code → Level
  | .bytes _ => .hostByte
  | .event _ => .commandEvent
  | .wire _ | .noTransfer => .wire

/-- The units of a code: bytes, bits sent, or one event. -/
def sizeOfCode : Code → Nat
  | .bytes bs => bs.length
  | .event _ => 1
  | .wire bits => bits.length
  | .noTransfer => 0

/-- The level and the number of units the table's formats B1, B3, W6, W6 with W16, W33, none and CMD have. -/
def format : Instr → Level × Nat
  | .binP => (.hostByte, 1)
  | .binQ => (.hostByte, 1)
  | .binZero => (.hostByte, 1)
  | .binI => (.hostByte, 1)
  | .binC => (.hostByte, 1)
  | .binR _ => (.hostByte, 3)
  | .binL _ => (.hostByte, 3)
  | .binE => (.hostByte, 1)
  | .binA => (.hostByte, 1)
  | .binW => (.hostByte, 1)
  | .binB => (.hostByte, 1)
  | .binF => (.hostByte, 1)
  | .binV => (.hostByte, 1)
  | .binX => (.hostByte, 1)
  | .binCr => (.hostByte, 1)
  | .binLf => (.hostByte, 1)
  | .binSpace => (.hostByte, 1)
  | .binUnrecognized _ => (.hostByte, 1)
  | .icspLoadConfig => (.wire, 22)
  | .icspLoadData _ => (.wire, 22)
  | .icspReadWord => (.wire, 6)
  | .icspIncAddress => (.wire, 6)
  | .icspBeginIntProg => (.wire, 6)
  | .icspEraseAll => (.wire, 6)
  | .icspEndExtProg => (.wire, 6)
  | .icspEraseRow => (.wire, 6)
  | .icspResetAddress => (.wire, 6)
  | .icspBeginExtProg => (.wire, 6)
  | .icspEnterProgramMode => (.wire, 33)
  | .icspExitProgramMode => (.wire, 0)
  | .intP => (.commandEvent, 1)
  | .intQ => (.commandEvent, 1)
  | .intZero => (.commandEvent, 1)
  | .intI => (.commandEvent, 1)
  | .intC => (.commandEvent, 1)
  | .intR _ => (.commandEvent, 1)
  | .intL _ => (.commandEvent, 1)
  | .intE => (.commandEvent, 1)
  | .intA => (.commandEvent, 1)
  | .intW => (.commandEvent, 1)
  | .intB => (.commandEvent, 1)
  | .intF => (.commandEvent, 1)
  | .intDot => (.commandEvent, 1)

/-- The encoding of an instruction has its format. -/
def Statement (i : Instr) : Prop := (levelOfCode (encode i), sizeOfCode (encode i)) = format i

theorem binP : Statement .binP := rfl

theorem binQ : Statement .binQ := rfl

theorem binZero : Statement .binZero := rfl

theorem binI : Statement .binI := rfl

theorem binC : Statement .binC := rfl

theorem binR (count : Word16) : Statement (.binR count) := rfl

theorem binL (value : Word16) : Statement (.binL value) := rfl

theorem binE : Statement .binE := rfl

theorem binA : Statement .binA := rfl

theorem binW : Statement .binW := rfl

theorem binB : Statement .binB := rfl

theorem binF : Statement .binF := rfl

theorem binV : Statement .binV := rfl

theorem binX : Statement .binX := rfl

theorem binCr : Statement .binCr := rfl

theorem binLf : Statement .binLf := rfl

theorem binSpace : Statement .binSpace := rfl

theorem binUnrecognized (b : Byte) : Statement (.binUnrecognized b) := rfl

theorem icspLoadConfig : Statement .icspLoadConfig := rfl

theorem icspLoadData (v : Word16) : Statement (.icspLoadData v) := rfl

theorem icspReadWord : Statement .icspReadWord := rfl

theorem icspIncAddress : Statement .icspIncAddress := rfl

theorem icspBeginIntProg : Statement .icspBeginIntProg := rfl

theorem icspEraseAll : Statement .icspEraseAll := rfl

theorem icspEndExtProg : Statement .icspEndExtProg := rfl

theorem icspEraseRow : Statement .icspEraseRow := rfl

theorem icspResetAddress : Statement .icspResetAddress := rfl

theorem icspBeginExtProg : Statement .icspBeginExtProg := rfl

theorem icspEnterProgramMode : Statement .icspEnterProgramMode := rfl

theorem icspExitProgramMode : Statement .icspExitProgramMode := rfl

theorem intP : Statement .intP := rfl

theorem intQ : Statement .intQ := rfl

theorem intZero : Statement .intZero := rfl

theorem intI : Statement .intI := rfl

theorem intC : Statement .intC := rfl

theorem intR (arg : Option Token) : Statement (.intR arg) := rfl

theorem intL (arg : Option Token) : Statement (.intL arg) := rfl

theorem intE : Statement .intE := rfl

theorem intA : Statement .intA := rfl

theorem intW : Statement .intW := rfl

theorem intB : Statement .intB := rfl

theorem intF : Statement .intF := rfl

theorem intDot : Statement .intDot := rfl

end Sys2Proof.Laws.CodeShape
end

