-- ==== Sys2Proof/Tests/Slice0.lean ====
section
/-! SUPPORT. Tests: the vectors of 95_test_vectors.md and words written out from the encoding tables, and for each
obligation with hypotheses a state and operands that meet them. An expected value comes from the spec, never from the
model. -/

namespace Sys2Proof.Tests

open Sys2Proof Sys2Proof.Machine

/-! ### Helpers -/

/-- Binary mode, no command begun, the other fields at reset, with these bytes waiting. -/
def inBinary (bs : List Byte) : State := { State.reset with mode := .binary, rx := bs }

/-- Reset state with this event waiting. -/
def withEvent (name : Token) (arg : Option Token) : State := { State.reset with cmd := [⟨name, arg⟩] }

/-- A state in the middle of a session: programming mode, pins owned, two bytes read before. -/
def session (bs : List Byte) : State :=
  { inBinary bs with
    programMode := true, dirCLK := .out, dirDATA := .out, lvlPGM_EN := .low,
    respLen := 2, respBuf := [(0, 0xFF), (1, 0x3F)] }

/-- The outcome is a next state that passes the check. -/
def goesOn (o : Host.Outcome State Fault Refusal) (p : State → Bool) : Bool :=
  match o with
  | .next t => p t
  | .fault _ => false
  | .refused _ => false

/-- The frame of 0x1234 (L1.2). -/
def frame1234 : List Bit :=
  [false, false, false, true, false, true, true, false, false, false, true, false, false, true, false, false]

/-! ### Well-formedness: an ill-formed term for each check -/

theorem test_wf_unrecognized_byte : (Instr.binUnrecognized 0x70).wf = false ∧ (Instr.binUnrecognized 0x7F).wf = true := by
  decide

theorem test_wf_load_value : (Instr.icspLoadData 0x8000).wf = false ∧ (Instr.icspLoadData 0x7FFF).wf = true := by decide

/-! ### Decoding: words written out from R66, R74, R75, R81 -/

theorem test_decode_bytes :
    ∀ row ∈ ([([0x70], .binP), ([0x71], .binQ), ([0x30], .binZero), ([0x69], .binI), ([0x63], .binC),
      ([0x72, 0x05, 0x00], .binR 5), ([0x6C, 0x34, 0x12], .binL 0x1234), ([0x65], .binE), ([0x61], .binA),
      ([0x77], .binW), ([0x62], .binB), ([0x66], .binF), ([0x76], .binV), ([0x78], .binX), ([0x0D], .binCr),
      ([0x0A], .binLf), ([0x20], .binSpace), ([0x2E], .binUnrecognized 0x2E)] : List (List Byte × Instr)),
      decode (.bytes row.1) = .ok row.2 ∧ encode row.2 = .bytes row.1 := by
  decide

/-- The bits are those of L2.1, least significant first. -/
theorem test_decode_wire :
    ∀ row ∈ ([([false, true, true, false, true, false], .icspResetAddress),
      ([false, true, true, false, false, false], .icspIncAddress),
      ([false, false, true, false, false, false], .icspReadWord),
      ([true, false, false, false, true, false], .icspEraseRow),
      ([true, false, false, true, false, false], .icspEraseAll),
      ([false, false, false, true, false, false], .icspBeginIntProg),
      ([false, false, false, true, true, false], .icspBeginExtProg),
      ([false, true, false, true, false, false], .icspEndExtProg),
      ([false, false, false, false, false, false] ++ List.replicate 16 false, .icspLoadConfig),
      ([false, true, false, false, false, false] ++ frame1234, .icspLoadData 0x1234)] : List (List Bit × Instr)),
      decode (.wire row.1) = .ok row.2 ∧ encode row.2 = .wire row.1 := by
  decide

theorem test_decode_key_and_exit :
    (encode .icspEnterProgramMode = .wire (wireBits Config.enterKey)) ∧
    decode .noTransfer = .ok .icspExitProgramMode ∧ encode .icspExitProgramMode = .noTransfer :=
  ⟨rfl, rfl, rfl⟩

theorem test_decode_events :
    ∀ row ∈ ([([0x70], .intP), ([0x71], .intQ), ([0x30], .intZero), ([0x69], .intI), ([0x63], .intC),
      ([0x72], .intR none), ([0x6C], .intL none), ([0x65], .intE), ([0x61], .intA), ([0x77], .intW), ([0x62], .intB),
      ([0x66], .intF), ([0x2E], .intDot)] : List (Token × Instr)),
      decode (.event ⟨row.1, none⟩) = .ok row.2 ∧ encode row.2 = .event ⟨row.1, none⟩ := by
  decide

/-- A command event's argument counts for `r` and `l` alone (R198; L2.5). -/
theorem test_decode_event_argument :
    decodeEvent ⟨[0x72], some [0x31, 0x37]⟩ = .ok (.intR (some [0x31, 0x37])) ∧
    decodeEvent ⟨[0x70], some [0x35]⟩ = .ok .intP := by decide

/-- Unknown, longer and empty names, and `v`, which is no Interactive name (R180, R198; L2.5). -/
theorem test_decode_event_unknown :
    decodeEvent ⟨[0x7A], none⟩ = .error (.unknownName [0x7A]) ∧ decodeEvent ⟨[0x76], none⟩ = .error (.unknownName [0x76]) ∧
    decodeEvent ⟨[0x70, 0x70], none⟩ = .error (.unknownName [0x70, 0x70]) ∧
    decodeEvent ⟨[], none⟩ = .error (.unknownName []) := by decide

/-- Each side of the ten codes: a payload with its start bit 0 decodes, bit 15 of the value is not in it (R77), and a
code between two of the ten is refused with a payload as well. -/
theorem test_decode_code_boundaries :
    decodeCommand 0x02 (false :: List.replicate 15 true) = .ok (.icspLoadData 0x7FFF) ∧
    decodeCommand 0x00 (List.replicate 16 false) = .ok .icspLoadConfig ∧
    decodeCommand 0x18 [] = .ok .icspBeginExtProg ∧
    decodeCommand 0x19 (List.replicate 16 false) = .error (.unusedCode 0x19) ∧
    decodeCommand 0x3F [] = .error (.unusedCode 0x3F) := by decide

/-- A command that is not whole, an unused code, and a payload that does not begin with the start bit. -/
theorem test_decode_refuses :
    decodeBytes [0x72, 0x05] = .error (.incomplete 2) ∧ decodeBytes [] = .error (.incomplete 0) ∧
    decodeCommand 0x01 [] = .error (.unusedCode 0x01) ∧ decodeCommand 0x06 [true] = .error (.badPayload [true]) ∧
    decodeCommand 0x02 (List.replicate 16 true) = .error (.badPayload (List.replicate 16 true)) := by decide

theorem test_table_word :
    decodeTableWord 8 0x70 = some .binP ∧ decodeTableWord 24 0x123472 = some (.binR 0x1234) ∧
    decodeTableWord 6 0x16 = some .icspResetAddress ∧ decodeTableWord 8 0x16 = some .icspResetAddress ∧
    decodeTableWord 8 0x7F = some (.binUnrecognized 0x7F) ∧ decodeTableWord 6 0x3F = none := by decide

/-- The placed word is what the next step runs: `v` replies its frame, `l` the ack, a target code its transfer. -/
theorem test_placed_word_runs :
    goesOn (step (State.reset.withFetchWord 8 0x76)) (fun t => txBytes t.trace == [0x02, 0x00, 0x30, 0x31]) = true ∧
    goesOn (step (State.reset.withFetchWord 24 0x12346C)) (fun t =>
      pulsedBits t.trace == wireBits (0x02 : BitVec 6) ++ wireBits (0x2468 : Word16) && txBytes t.trace == [0, 0]) = true ∧
    goesOn (step (State.reset.withFetchWord 8 0x11)) (fun t =>
      pulsedBits t.trace == [true, false, false, false, true, false]) = true := by
  decide +kernel

/-! ### The engine (L1.1, L1.2, L2.1, L2.2) -/

def ok? {α : Type} (x : Except Fault (α × State)) (p : α → State → Bool) : Bool :=
  match x with
  | .ok (a, t) => p a t
  | .error _ => false

def sends (x : Except Fault State) (p : State → Bool) : Bool :=
  match x with
  | .ok t => p t
  | .error _ => false

theorem test_send_reset_address :
    sends (send 0x16 6 State.reset) (fun t =>
      t.trace.take 7 == [.wait .tStart, .lvl .clock .high, .lvl .data .low, .wait .tBit, .lvl .clock .low, .wait .tBit,
        .lvl .clock .high] && t.trace.length == 32 && clockPulses t.trace == 6 && t.lvlCLK == .low && t.lvlDATA == .low)
      = true := by decide +kernel

/-- Bits 6 and up of the value are not sent. -/
theorem test_send_low_bits : sends (send 0x7FFE 6 State.reset) (fun t =>
    pulsedBits t.trace == [false, true, true, true, true, true]) = true := by decide +kernel

theorem test_send_width_fault :
    send 0 5 State.reset = .error (.engineSendWidth 5) ∧ send 0 34 State.reset = .error (.engineSendWidth 34) :=
  ⟨rfl, rfl⟩

theorem test_read_frame :
    ∀ row ∈ ([(frame1234, 0x1234), (List.replicate 16 true, 0x3FFF), (List.replicate 16 false, 0x0000),
      (true :: List.replicate 15 false, 0x0000), (List.replicate 15 false ++ [true], 0x0000),
      (false :: true :: List.replicate 14 false, 0x0001),
      (List.replicate 14 false ++ [true, false], 0x2000)] : List (List Bit × Word14)),
      ok? (readBits 16 (targetShows row.1 State.reset)) (fun w t => w == row.2 && t.trace.length == 83 && t.smp == [])
        = true := by
  decide +kernel

theorem test_read_width_fault : readBits 8 State.reset = .error (.engineReadWidth 8) := rfl

/-! ### The sequencer (L2.3) -/

/-- The bits of a state's transfers are a code and a payload. -/
def carries (c : BitVec 6) (p : Word16) (t : State) : Bool := pulsedBits t.trace == wireBits c ++ wireBits p

theorem test_load_data_payload :
    sends (loadData 0x1234 State.reset) (carries 0x02 0x2468) = true ∧
    sends (loadData 0x4000 State.reset) (carries 0x02 0x8000) = true ∧
    sends (loadData 0x8000 State.reset) (carries 0x02 0x0000) = true ∧
    sends (loadData 0xFFFF State.reset) (carries 0x02 0xFFFE) = true := by
  decide +kernel

theorem test_enter_leaves : ∃ t, exec .icspEnterProgramMode State.reset = .next t ∧ t.programMode = true ∧
    t.dirCLK = .out ∧ t.dirDATA = .out ∧ t.lvlPGM_EN = .low ∧ t.lvlCLK = .low ∧ t.lvlDATA = .low :=
  ⟨_, congrArg finish (enterProgramMode_ok _), rfl, rfl, rfl, rfl, rfl, rfl⟩

theorem test_exit_events : goesOn (exec .icspExitProgramMode (session [])) (fun t =>
    !t.programMode && t.trace == [.dir .clock .inp, .dir .data .inp, .lvl .pgmEn .high, .wait .tExitEdge,
      .lvl .pgmEn .low, .wait .tExitEdge, .lvl .pgmEn .high, .wait .tExitEdge]) = true := by decide +kernel

theorem test_timed_commands :
    ∀ row ∈ ([(.icspEraseRow, 0x11, .tEraseRow), (.icspEraseAll, 0x09, .tEraseAll), (.icspBeginIntProg, 0x08, .tProgInt),
      (.icspBeginExtProg, 0x18, .tProgExt), (.icspEndExtProg, 0x0A, .tGap)] : List (Instr × BitVec 6 × Duration)),
      goesOn (exec row.1 State.reset) (fun t => pulsedBits t.trace == wireBits row.2.1
        && t.trace.getLast? == some (.wait row.2.2) && t.trace.length == 33) = true := by
  decide +kernel

/-- The stale tail: two words read after five leave bytes 4 and 5 of the first read. -/
theorem test_stale_tail :
    sends (do
      let s ← readProgramMemory 3 (targetShows (List.replicate 48 true) State.reset)
      readProgramMemory 2 (targetShows (List.replicate 32 false) s)) (fun t =>
        t.respLen == 4 && t.respBuf == [(0, 0), (1, 0), (2, 0), (3, 0), (4, 0xFF), (5, 0x3F)]) = true := by
  decide +kernel

/-! ### Binary mode (L1.4 to L1.9, L2.4) -/

theorem test_bin_ack_frames :
    ∀ b ∈ ([0x70, 0x71, 0x30, 0x69, 0x63, 0x65, 0x61, 0x77, 0x62, 0x66] : List Byte),
      goesOn (step (inBinary [b])) (fun t => txBytes t.trace == [0, 0] && t.rx == [] && t.mode == .binary) = true := by
  decide +kernel

theorem test_bin_read_one_word :
    goesOn (step { targetShows (List.replicate 16 true) (inBinary [0x00]) with pstate := .arg2 .r 0x01 }) (fun t =>
      txBytes t.trace == [0x02, 0x00, 0xFF, 0x3F] && t.respLen == 2 && t.pstate == .idle) = true := by
  decide +kernel

theorem test_bin_read_zero_words :
    goesOn (exec (.binR 0) (session [])) (fun t => txBytes t.trace == [0, 0] && t.respLen == 0
      && t.respBuf == [(0, 0xFF), (1, 0x3F)] && t.trace.length == 2) = true := by
  decide +kernel

/-- P2: the last byte of a read of three words. -/
theorem test_bin_read_three_words :
    goesOn (exec (.binR 3) (targetShows (frame1234 ++ (false :: List.replicate 14 true ++ [false])
      ++ List.replicate 16 false) (session []))) (fun t =>
        txBytes t.trace == [0x06, 0x00, 0x34, 0x12, 0xFF, 0x3F, 0x00, 0x00] && t.respLen == 6) = true := by
  decide +kernel

/-- `72` and `72 05` hold (L2.4); a byte that is an opcode elsewhere is an argument here (P4). -/
theorem test_bin_collects_argument :
    goesOn (step (inBinary [0x72])) (fun t => t.pstate == .arg1 .r && t.trace == []) = true ∧
    goesOn (step { inBinary [0x78] with pstate := .arg1 .r }) (fun t =>
      t.pstate == .arg2 .r 0x78 && t.trace == [] && t.mode == .binary) = true := by
  decide

theorem test_bin_load : goesOn (step { inBinary [0x12] with pstate := .arg2 .l 0x34 }) (fun t =>
    pulsedBits t.trace == wireBits (0x02 : BitVec 6) ++ wireBits (0x2468 : Word16) && txBytes t.trace == [0, 0]
      && t.pstate == .idle) = true := by
  decide +kernel

theorem test_bin_version : goesOn (step (session [0x76])) (fun t =>
    t == { session [] with trace := [.tx 0x02, .tx 0x00, .tx 0x30, .tx 0x31] }) = true := by decide

theorem test_bin_unrecognized :
    ∀ b ∈ ([0x7F, 0x00, 0x2E, 0x50, 0x3F] : List Byte),
      goesOn (step (session [b])) (fun t => t == { session [] with trace := [.tx 0x3F] }) = true := by decide

theorem test_bin_ignored :
    ∀ b ∈ ([0x0D, 0x0A, 0x20] : List Byte), goesOn (step (session [b])) (fun t => t == session []) = true := by decide

theorem test_bin_leave : goesOn (step (session [0x78])) (fun t =>
    t.mode == .interactive && t.programMode && t.respLen == 2) = true := by decide

/-! ### Interactive mode (L1.7, L1.8, L2.5) -/

theorem test_int_dot : goesOn (step (withEvent [0x2E] none)) (fun t => t == inBinary []) = true := by decide

theorem test_int_commands_are_silent :
    ∀ c ∈ ([0x70, 0x71, 0x30, 0x69, 0x63, 0x6C, 0x65, 0x61, 0x77, 0x62, 0x66] : List Byte),
      goesOn (step (withEvent [c] none)) (fun t => t.trace.all Event.isPin && t.cmd == [] && t.trace != []) = true := by
  decide +kernel

theorem test_int_unknown : goesOn (step (withEvent [0x7A] none)) (fun t => t == State.reset) = true := by decide

/-- `l 0x1234` and `l 4660` send the same payload. -/
theorem test_int_load :
    ∀ arg ∈ ([[0x30, 0x78, 0x31, 0x32, 0x33, 0x34], [0x34, 0x36, 0x36, 0x30]] : List Token),
      goesOn (step (withEvent [0x6C] (some arg))) (fun t =>
        pulsedBits t.trace == wireBits (0x02 : BitVec 6) ++ wireBits (0x2468 : Word16)) = true := by
  decide +kernel

/-- `r` and `r 0` (L2.5). -/
theorem test_int_read :
    goesOn (step (targetShows frame1234 (withEvent [0x72] none))) (fun t =>
      t.respLen == 2 && t.respBuf == [(0, 0x34), (1, 0x12)]) = true ∧
    goesOn (step (withEvent [0x72] (some [0x30]))) (fun t => t == State.reset) = true := by
  decide +kernel

/-- `r 2` with the sample parameter values of L2.5: `3FFF 00AB` and a line break. -/
theorem test_int_listing :
    sends (listing ⟨true, [0x20], [0x0D, 0x0A]⟩ 2 { State.reset with respBuf := [(0, 0xFF), (1, 0x3F), (2, 0xAB), (3, 0)] })
      (fun t => outBytes t.trace == [0x33, 0x46, 0x46, 0x46, 0x20, 0x30, 0x30, 0x41, 0x42, 0x20, 0x0D, 0x0A]) = true := by
  decide +kernel

/-- Sixteen words end in one line break, not two (L1.8). -/
theorem test_int_listing_full_line :
    (listingBytes ⟨false, [], [0x0A]⟩ 16 fun _ => 0x3FFF).count 0x0A = 1 ∧
    (listingBytes ⟨false, [], [0x0A]⟩ 17 fun _ => 0x3FFF).count 0x0A = 2 ∧
    listingBytes ⟨false, [], [0x0A]⟩ 0 (fun _ => 0x3FFF) = [] := by
  decide +kernel

/-- The rows of L2.5: `0X10`, `010`, `0x`, `-1`, `abc`, `70000`, `65536`. -/
theorem test_argument_values :
    argValue .reduce (some [0x30, 0x58, 0x31, 0x30]) 1 = 1 ∧ argValue .reduce (some [0x30, 0x31, 0x30]) 1 = 10 ∧
    argValue .reduce (some [0x30, 0x78]) 1 = 1 ∧ argValue .reduce (some [0x2D, 0x31]) 1 = 1 ∧
    argValue .reduce (some [0x61, 0x62, 0x63]) 1 = 1 ∧
    argValue .reduce (some [0x37, 0x30, 0x30, 0x30, 0x30]) 1 = 4464 ∧
    argValue .useDefault (some [0x37, 0x30, 0x30, 0x30, 0x30]) 1 = 1 ∧
    argValue .reduce (some [0x36, 0x35, 0x35, 0x33, 0x36]) 0 = 0 := by decide

/-- Text of an argument, as the bytes of its decimal digits: 65537, 70000 and 65536 at the default of `WIDE_ARG`: one
word read, and payloads of 4464 and of 0 (L2.5). -/
theorem test_wide_argument_default :
    sends (interactiveRead Config.wideArgDefault ⟨true, [], []⟩ (some [0x36, 0x35, 0x35, 0x33, 0x37])
      (targetShows (List.replicate 16 true) State.reset)) (fun t =>
        t.respLen == 2 && outBytes t.trace == [0x33, 0x46, 0x46, 0x46]) = true ∧
    sends (interactiveLoad Config.wideArgDefault (some [0x37, 0x30, 0x30, 0x30, 0x30]) State.reset)
      (carries 0x02 0x22E0) = true ∧
    sends (interactiveLoad Config.wideArgDefault (some [0x36, 0x35, 0x35, 0x33, 0x36]) State.reset)
      (carries 0x02 0x0000) = true := by
  decide +kernel

/-- `0xaF` is 175, and the characters beside the digit ranges do not parse (R181). -/
theorem test_argument_digits :
    parseArg [0x30, 0x78, 0x61, 0x46] = some 175 ∧ parseArg [0x30, 0x78, 0x30, 0x39, 0x41, 0x66] = some 0x09AF ∧
    ∀ c ∈ ([0x2F, 0x3A, 0x40, 0x47, 0x60, 0x67] : List Byte), parseArg [0x30, 0x78, c] = none := by decide

/-! ### Witnesses: what the obligations assume can hold -/

theorem test_witness_inv : (session [0x76]).Inv :=
  ⟨by decide, by decide, by decide, by decide, by decide, by decide, by decide, by decide, by decide⟩

theorem test_witness_stepKeepsInvariant : ∃ t, (session [0x76]).Inv ∧ step (session [0x76]) = .next t :=
  ⟨_, test_witness_inv, rfl⟩

theorem test_witness_stepOnlyAppendsEvents : ∃ t, step (session [0x7F]) = .next t := ⟨_, rfl⟩

/-- One state per clause: `.` taken, `x` taken, and `x` as an argument. -/
theorem test_witness_modeChanges :
    (∃ t, step (withEvent [0x2E] none) = .next t ∧ (withEvent [0x2E] none).mode = .interactive ∧
      (withEvent [0x2E] none).cmd.head?.map CmdEvent.name = some [0x2E]) ∧
    (∃ t, step (inBinary [0x78]) = .next t ∧ (inBinary [0x78]).mode = .binary ∧ (inBinary [0x78]).pstate = .idle ∧
      (inBinary [0x78]).rx.head? = some 0x78) ∧
    ∃ t, step { inBinary [0x78] with pstate := .arg1 .r } = .next t ∧ t.mode = .binary :=
  ⟨⟨_, rfl, rfl, rfl⟩, ⟨_, rfl, rfl, rfl, rfl⟩, ⟨_, rfl, rfl⟩⟩

theorem test_witness_programMode :
    (∃ t, exec .binP (inBinary []) = .next t ∧ Instr.binP ∈ enterCommands) ∧
    (∃ t, exec .intQ (session []) = .next t ∧ Instr.intQ ∉ enterCommands ∧ Instr.intQ ∈ exitCommands) ∧
    ∃ t, exec .binE (session []) = .next t ∧ Instr.binE ∉ enterCommands ∧ Instr.binE ∉ exitCommands :=
  ⟨⟨_, rfl, by decide⟩, ⟨_, rfl, by decide, by decide⟩, ⟨_, rfl, by decide, by decide⟩⟩

/-- States of both values of `programMode`, and a poll that holds, one that only collects, and one that runs. -/
theorem test_witness_programMode_step :
    (session []).programMode = true ∧ (inBinary []).programMode = false ∧ fetch (session []) = .hold ∧
    fetch (session [0x72]) = .consumed { session [] with pstate := .arg1 .r } ∧
    fetch (session [0x71]) = .run .binQ (session []) := by decide

theorem test_witness_respLen :
    (∃ t, exec (.binR 0) (session []) = .next t ∧ writesRespLen (.binR 0) = true) ∧
    (∃ t, exec (.intR (some [0x30])) (session []) = .next t ∧ writesRespLen (.intR (some [0x30])) = true) ∧
    ∃ t, exec .binV (session []) = .next t ∧ writesRespLen .binV = false :=
  ⟨⟨_, rfl, rfl⟩, ⟨_, rfl, rfl⟩, ⟨_, rfl, rfl⟩⟩

theorem test_witness_readsNoWord : wordsReadBy .icspEraseRow = 0 ∧ wordsReadBy (.binR 0) = 0 ∧ wordsReadBy (.binR 1025) = 1024 := by
  decide

theorem test_witness_agreeButHidden :
    AgreeButHidden (inBinary [0x72, 0x01, 0x00]) (session [0x72, 0x01, 0x00]) ∧
    inBinary [0x72, 0x01, 0x00] ≠ session [0x72, 0x01, 0x00] :=
  ⟨⟨rfl, rfl, rfl, rfl, rfl, rfl, rfl⟩, by decide⟩

/-- For each clause of the register frame a command that it speaks of. -/
theorem test_witness_registerFrame :
    (∃ t, exec .binE (session []) = .next t) ∧
    (Instr.binE ≠ .binX ∧ Instr.binE ≠ .intDot ∧ Instr.binE ∉ enterCommands ∧ Instr.binE ∉ exitCommands ∧
      wordsReadBy .binE = 0 ∧ writesRespLen .binE = false) ∧
    (∃ t, exec .binV (session []) = .next t) ∧ isSilent .binV = true ∧
    (∃ t, exec .binQ (session []) = .next t) ∧ Instr.binQ ∈ exitCommands :=
  ⟨⟨_, rfl⟩, by decide, ⟨_, rfl⟩, rfl, ⟨_, rfl⟩, by decide⟩

/-- The first byte beyond a read of one word, and address 0 for a command that stores nothing. -/
theorem test_witness_memoryFrame :
    ((∃ t, exec (.binR 1) (session []) = .next t) ∧ 2 * wordsStoredBy (.binR 1) ≤ (2 : BitVec 11).toNat) ∧
    (∃ t, exec .icspReadWord (session []) = .next t) ∧ 2 * wordsStoredBy .icspReadWord ≤ (0 : BitVec 11).toNat :=
  ⟨⟨⟨_, rfl⟩, by decide⟩, ⟨_, rfl⟩, by decide⟩

/-- Two addresses, and one that nothing has written. -/
theorem test_witness_buffer :
    (1 : BitVec 11) ≠ 0 ∧ (session []).respBuf.lookup (2 : BitVec 11).toNat = none ∧
    State.reset.respBuf.lookup (0 : BitVec 11).toNat = none := by decide

theorem test_witness_binaryLoad :
    ((inBinary [0x6C]).mode = .binary ∧ (inBinary [0x6C]).pstate = .idle ∧ (inBinary [0x6C]).rx = 0x6C :: []) ∧
    (∃ s : State, s.mode = .binary ∧ s.pstate = .arg1 .l ∧ s.rx = 0x34 :: [0x12]) ∧
    ∃ s : State, s.mode = .binary ∧ s.pstate = .arg2 .l 0x34 ∧ s.rx = 0x12 :: [] :=
  ⟨⟨rfl, rfl, rfl⟩, ⟨{ inBinary [0x34, 0x12] with pstate := .arg1 .l }, rfl, rfl, rfl⟩,
    ⟨{ inBinary [0x12] with pstate := .arg2 .l 0x34 }, rfl, rfl, rfl⟩⟩

theorem test_witness_acks : (∃ t, exec .binP (inBinary []) = .next t) ∧ ∃ t, exec .binQ (session []) = .next t :=
  ⟨⟨_, rfl⟩, ⟨_, rfl⟩⟩

/-- A read of no words and a read of one. -/
theorem test_witness_readCounts :
    min (0 : Word16).toNat 1024 = 0 ∧ min (0xFFFF : Word16).toNat 1024 = 1024 ∧
    (∀ wide, min (argValue wide (some [0x30]) 1).toNat 1024 = 0) ∧
    ∀ wide, min (argValue wide (some [0x31]) 1).toNat 1024 ≠ 0 :=
  ⟨rfl, rfl, fun wide => by cases wide <;> decide, fun wide => by cases wide <;> decide⟩

theorem test_witness_ignoredBytes :
    ((0x0D : Byte) ∈ [0x0D, 0x0A, 0x20] ∧ (inBinary [0x0D]).mode = .binary ∧ (inBinary [0x0D]).rx = 0x0D :: [] ∧
      (inBinary [0x0D]).pstate = .idle) ∧
    (∃ s : State, s.mode = .binary ∧ s.rx = 0x0A :: [] ∧ s.pstate = .arg1 .r) ∧
    ∃ s : State, s.mode = .binary ∧ s.rx = 0x20 :: [] ∧ s.pstate = .arg2 .l 0x00 :=
  ⟨by decide, ⟨{ inBinary [0x0A] with pstate := .arg1 .r }, rfl, rfl, rfl⟩,
    ⟨{ inBinary [0x20] with pstate := .arg2 .l 0x00 }, rfl, rfl, rfl⟩⟩

theorem test_witness_unrecognizedBytes :
    (0x00 : Byte) ∉ recognizedBytes ∧ (0xFF : Byte) ∉ recognizedBytes ∧ 0x41 ≤ (0x41 : Byte).toNat ∧ (0x5A : Byte).toNat ≤ 0x5A := by
  decide

theorem test_witness_replies :
    (isBinary (.binR 1) = true ∧ ∃ t, exec (.binR 1) (inBinary []) = .next t) ∧ repliesWithFrame .binV = true ∧
    repliesWithFrame .binX = false ∧ Instr.binV ≠ .binX :=
  ⟨⟨rfl, ⟨_, rfl⟩⟩, rfl, rfl, by decide⟩

theorem test_witness_intEnterExit : (∃ t, exec .intP State.reset = .next t) ∧ ∃ t, exec .intQ State.reset = .next t :=
  ⟨⟨_, rfl⟩, ⟨_, rfl⟩⟩

/-- Parameters and a buffer as the line count assumes, for one word. -/
theorem test_witness_listing :
    ∃ f : ListFormat, f.newline = [0x0A] ∧ (0x0A : Byte) ∉ f.wordSep ∧ 1 ≤ 1024 ∧
      ∀ a < 2 * 1, ((session []).respBuf.lookup a).isSome :=
  ⟨⟨true, [0x20], [0x0A]⟩, by decide⟩

/-- No argument, one that does not parse, one below 2^16 and one at 2^16. -/
theorem test_witness_arguments :
    ((none : Option Token).bind parseArg = none ∧ (some [0x30, 0x78] : Option Token).bind parseArg = none) ∧
    (([0x30, 0x39] : Token) ≠ [] ∧ ∀ c ∈ ([0x30, 0x39] : Token), 0x30 ≤ c.toNat ∧ c.toNat ≤ 0x39) ∧
    (([0x39, 0x41, 0x46, 0x61, 0x66] : Token) ≠ [] ∧ ∀ c ∈ ([0x39, 0x41, 0x46, 0x61, 0x66] : Token),
      (0x30 ≤ c.toNat ∧ c.toNat ≤ 0x39) ∨ (0x41 ≤ c.toNat ∧ c.toNat ≤ 0x46) ∨ (0x61 ≤ c.toNat ∧ c.toNat ≤ 0x66)) ∧
    (parseArg [0x36, 0x35, 0x35, 0x33, 0x35] = some 65535 ∧ 65535 < 2 ^ 16) ∧
    parseArg [0x36, 0x35, 0x35, 0x33, 0x36] = some 65536 ∧ 2 ^ 16 ≤ 65536 := by decide

/-- One state for each clause of the Binary step. -/
theorem test_witness_stepByte :
    (∀ b : Byte, (inBinary [b]).mode = .binary ∧ (inBinary [b]).rx = b :: [] ∧ (inBinary [b]).pstate = .idle) ∧
    decodeBytes [0x76] = .ok (.binV, []) ∧
    (∃ s : State, s.mode = .binary ∧ s.rx = 0x05 :: [] ∧ s.pstate = .arg1 .r) ∧
    (∃ s : State, s.mode = .binary ∧ s.rx = 0x00 :: [] ∧ s.pstate = .arg2 .r 0x05) ∧
    ∃ s : State, s.mode = .binary ∧ s.rx = 0x12 :: [] ∧ s.pstate = .arg2 .l 0x34 :=
  ⟨fun _ => ⟨rfl, rfl, rfl⟩, rfl, ⟨{ inBinary [0x05] with pstate := .arg1 .r }, rfl, rfl, rfl⟩,
    ⟨{ inBinary [0x00] with pstate := .arg2 .r 0x05 }, rfl, rfl, rfl⟩,
    ⟨{ inBinary [0x12] with pstate := .arg2 .l 0x34 }, rfl, rfl, rfl⟩⟩

theorem test_witness_threeBytes : (inBinary [0x6C, 0x78, 0x00]).mode = .binary ∧ (inBinary [0x6C, 0x78, 0x00]).pstate = .idle ∧
    (inBinary [0x6C, 0x78, 0x00]).rx = (match ArgOp.l with | .r => 0x72 | .l => 0x6C) :: 0x78 :: 0x00 :: [] :=
  ⟨rfl, rfl, rfl⟩

theorem test_witness_stepEvent :
    (∀ e, ({ State.reset with cmd := [e] } : State).mode = .interactive ∧ ({ State.reset with cmd := [e] } : State).cmd = e :: []) ∧
    decodeEvent ⟨[0x2E], none⟩ = .ok .intDot ∧ decodeEvent ⟨[0x7A], none⟩ = .error (.unknownName [0x7A]) ∧
    ∀ name ∈ ([[0x7A], [0x76], [0x78], [0x50], [], [0x70, 0x70]] : List Token), name ∉ ([[0x70], [0x71], [0x30], [0x69],
      [0x63], [0x72], [0x6C], [0x65], [0x61], [0x77], [0x62], [0x66], [0x2E]] : List Token) :=
  ⟨fun _ => ⟨rfl, rfl⟩, rfl, rfl, by decide⟩

/-- The three holds, and a state in none of them. -/
theorem test_witness_holds :
    State.reset.idleInteractive ∧ (inBinary []).atRest ∧ ({ inBinary [] with pstate := .arg1 .r } : State).held ∧
    State.reset.hasNoStep ∧ ¬ (inBinary [0x20]).hasNoStep := by
  refine ⟨⟨rfl, rfl⟩, ⟨rfl, rfl, rfl⟩, ⟨rfl, by decide, rfl⟩, .inl ⟨rfl, rfl⟩, ?_⟩
  rintro (h | h | h)
  · cases h.1
  · cases h.2.2
  · cases h.2.2

theorem test_witness_codes :
    (Instr.icspLoadData 0x7FFF).wf = true ∧ decodeBytes [0x72, 0x05, 0x00, 0x76] = .ok (.binR 5, [0x76]) ∧
    (0x3F : BitVec 6) ∉ ([0x00, 0x02, 0x04, 0x06, 0x08, 0x09, 0x0A, 0x11, 0x16, 0x18] : List (BitVec 6)) ∧
    (encode .icspEraseRow = .wire [true, false, false, false, true, false] ∧
      [true, false, false, false, true, false].length = 6) ∧
    encode .icspLoadConfig = .wire (List.replicate 22 false) ∧ (List.replicate 22 false).length = 22 := by decide

/-- The bounds of `send` and a count that `readBits` does not take. -/
theorem test_witness_widths : (5 < 6 ∨ 33 < 5) ∧ (34 < 6 ∨ 33 < 34) ∧ (6 ≤ 6 ∧ 6 ≤ 33) ∧ (6 ≤ 33 ∧ 33 ≤ 33) ∧ 8 ≠ 16 ∧ 0 < 6 := by
  decide

theorem test_witness_roundTrip :
    (targetShows (frame1234 ++ [true]) State.reset).smp = wireBits ((0x1234 : Word16) <<< 1) ++ [true] := by decide

end Sys2Proof.Tests
end

section
/-! SUPPORT. What every command does, said once (R152, R180): an effect of the sequencer or of the dispatcher on the
state, and the reply that is emitted after it (R172). Each effect has its closed form from the lemmas on the sequencer. -/

namespace Sys2Proof.Machine

/-! ### The effects -/

/-- The effects a command can have on the state before its reply. -/
inductive CmdEffect where
  /-- nothing (R167, R169, R170) -/
  | keep
  /-- a transition of `mode` (R168, R197) -/
  | setMode (m : Mode)
  /-- transfers that only send, with these events (R123-R132) -/
  | send (es : List Event)
  /-- entry (R121) -/
  | enter
  /-- exit (R122) -/
  | exit
  /-- one word read (R127) -/
  | readWord
  /-- a bulk read of `n` words (R133) -/
  | readBulk (n : Nat)

/-- The closed form of an effect. -/
def CmdEffect.apply (e : CmdEffect) (s : State) : State :=
  match e with
  | .keep => s
  | .setMode m => Machine.setMode m s
  | .send es => sent es s
  | .enter => { s with
      programMode := true, dirCLK := .out, dirDATA := .out, lvlCLK := .low, lvlDATA := .low, lvlPGM_EN := .low,
      trace := s.trace ++ enterTrace }
  | .exit => { s with
      programMode := false, dirCLK := .inp, dirDATA := .inp, lvlPGM_EN := .high, trace := s.trace ++ exitTrace }
  | .readWord => wordRead (readWordTrace (nextSamples 16 s)) s
  | .readBulk n => { wordsStored n 0 s with respLen := BitVec.ofNat 16 (2 * n) }

/-- The effect of each command. -/
def effectOf : Instr → CmdEffect
  | .binP | .intP | .icspEnterProgramMode => .enter
  | .binQ | .intQ | .icspExitProgramMode => .exit
  | .binZero | .intZero | .icspResetAddress => .send (cmdTrace 0x16)
  | .binI | .intI | .icspIncAddress => .send (cmdTrace 0x06)
  | .binC | .intC | .icspLoadConfig => .send (loadTrace 0x00 0)
  | .binL v | .icspLoadData v => .send (loadTrace 0x02 (v <<< 1))
  | .intL arg => .send (loadTrace 0x02 (argValue Config.wideArg arg Config.lValueDefault <<< 1))
  | .binE | .intE | .icspEraseRow => .send (cmdTrace 0x11 ++ [.wait .tEraseRow])
  | .binA | .intA | .icspEraseAll => .send (cmdTrace 0x09 ++ [.wait .tEraseAll])
  | .binW | .intW | .icspBeginIntProg => .send (cmdTrace 0x08 ++ [.wait .tProgInt])
  | .binB | .intB | .icspBeginExtProg => .send (cmdTrace 0x18 ++ [.wait .tProgExt])
  | .binF | .intF | .icspEndExtProg => .send (cmdTrace 0x0A ++ [.wait .tGap])
  | .icspReadWord => .readWord
  | .binR count => .readBulk (clampCount count)
  | .intR arg => .readBulk (clampCount (argValue Config.wideArg arg Config.rCountDefault))
  | .binX => .setMode .interactive
  | .intDot => .setMode .binary
  | .binV | .binCr | .binLf | .binSpace | .binUnrecognized _ => .keep

/-- The events a command that starts in `s` emits after its effect: reply, prompt or listing. -/
def replyOf (i : Instr) (s : State) : List Event :=
  match i with
  | .binP | .binQ | .binZero | .binI | .binC | .binL _ | .binE | .binA | .binW | .binB | .binF => ackTrace
  | .binR count =>
    ([lo8 (BitVec.ofNat 16 (2 * clampCount count)), hi8 (BitVec.ofNat 16 (2 * clampCount count))]
      ++ bulkBytes (clampCount count) s).map .tx
  | .binV => ([0x02, 0x00] ++ Config.version).map .tx
  | .binX => Config.prompt.map .tx
  | .binUnrecognized _ => [.tx 0x3F]
  | .intR arg =>
    (listingBytes Config.listFormat (clampCount (argValue Config.wideArg arg Config.rCountDefault)) fun i =>
      (wordAt s i).setWidth 16).map .out
  | .binCr | .binLf | .binSpace
  | .icspLoadConfig | .icspLoadData _ | .icspReadWord | .icspIncAddress | .icspBeginIntProg | .icspEraseAll
  | .icspEndExtProg | .icspEraseRow | .icspResetAddress | .icspBeginExtProg | .icspEnterProgramMode
  | .icspExitProgramMode | .intP | .intQ | .intZero | .intI | .intC | .intL _ | .intE | .intA | .intW | .intB | .intF
  | .intDot => []

/-! ### Every command has its effect and then its reply -/

@[simp] theorem emit_nil (s : State) : emit [] s = s := by simp [emit]

/-- A command that is an operation and nothing else. -/
theorem finish_of_ok {x : Except Fault State} {t : State} (h : x = .ok t) : finish x = .next (emit [] t) := by
  rw [h, emit_nil, finish_ok]

/-- A command that is an operation and then the ack (R153). -/
theorem finish_ack_of_ok {x : Except Fault State} {t : State} (h : x = .ok t) :
    finish (do let s ← x; return ack s) = .next (emit ackTrace t) := by
  rw [h, ok_bind, ack_eq, finish_pure]

/-- The word read alone, whose word goes nowhere (log 10). -/
theorem execIcspReadWord_eq (s : State) :
    execIcspReadWord s = .next (emit [] (CmdEffect.readWord.apply s)) := by
  rw [execIcspReadWord, readWord_ok, emit_nil]
  rfl

/-- The bulk read and its DATA reply, which carries the words just read (R160). -/
theorem execBinR_eq (count : Word16) (s : State) :
    execBinR count s = .next (emit (replyOf (.binR count) s) ((effectOf (.binR count)).apply s)) := by
  have hlen := respLen_toNat count
  rw [execBinR, readProgramMemory_ok, ok_bind, txResponse_ok (byte := byteAt (wordAt s))]
  · rw [hlen, map_byteAt]
    rfl
  · rw [hlen]
    have := clampCount_le count
    omega
  · intro a ha
    exact insertWords_lookup_byteAt (wordAt s) s.respBuf (hlen ▸ ha)

/-- Every command completes, and does exactly its effect and then its reply. -/
theorem exec_eq (i : Instr) (s : State) : exec i s = .next (emit (replyOf i s) ((effectOf i).apply s)) := by
  cases i with
  | binP => exact finish_ack_of_ok (enterProgramMode_ok s)
  | binQ => exact finish_ack_of_ok (exitProgramMode_ok s)
  | binZero => exact finish_ack_of_ok (resetAddress_ok s)
  | binI => exact finish_ack_of_ok (incAddress_ok s)
  | binC => exact finish_ack_of_ok (loadConfig_ok s)
  | binR count => exact execBinR_eq count s
  | binL value => exact finish_ack_of_ok (loadData_ok value s)
  | binE => exact finish_ack_of_ok (eraseRow_ok s)
  | binA => exact finish_ack_of_ok (eraseAll_ok s)
  | binW => exact finish_ack_of_ok (beginIntProg_ok s)
  | binB => exact finish_ack_of_ok (beginExtProg_ok s)
  | binF => exact finish_ack_of_ok (endExtProg_ok s)
  | binV => exact congrArg Host.Outcome.next (txFrame_eq Config.version s)
  | binX | binUnrecognized _ => rfl
  | binCr | binLf | binSpace | intDot => exact congrArg Host.Outcome.next (emit_nil _).symm
  | icspLoadConfig | intC => exact finish_of_ok (loadConfig_ok s)
  | icspLoadData v => exact finish_of_ok (loadData_ok v s)
  | icspReadWord => exact execIcspReadWord_eq s
  | icspIncAddress | intI => exact finish_of_ok (incAddress_ok s)
  | icspBeginIntProg | intW => exact finish_of_ok (beginIntProg_ok s)
  | icspEraseAll | intA => exact finish_of_ok (eraseAll_ok s)
  | icspEndExtProg | intF => exact finish_of_ok (endExtProg_ok s)
  | icspEraseRow | intE => exact finish_of_ok (eraseRow_ok s)
  | icspResetAddress | intZero => exact finish_of_ok (resetAddress_ok s)
  | icspBeginExtProg | intB => exact finish_of_ok (beginExtProg_ok s)
  | icspEnterProgramMode | intP => exact finish_of_ok (enterProgramMode_ok s)
  | icspExitProgramMode | intQ => exact finish_of_ok (exitProgramMode_ok s)
  | intR arg =>
    exact (congrArg finish (interactiveRead_ok Config.wideArg Config.listFormat arg s)).trans (finish_ok _)
  | intL arg => exact finish_of_ok (interactiveLoad_ok Config.wideArg arg s)

/-- The state after a command. -/
theorem exec_next {i : Instr} {s t : State} (h : exec i s = .next t) :
    t = emit (replyOf i s) ((effectOf i).apply s) := by
  rw [exec_eq] at h
  exact (Host.Outcome.next.inj h).symm

end Sys2Proof.Machine
end

section
/-! SUPPORT. The rows of the decoding tables by membership (R74, R81). -/

namespace Sys2Proof

theorem mem_of_lookup_eq_some {β : Type} {rows : List (Byte × β)} {b : Byte} {v : β} (h : rows.lookup b = some v) :
    (b, v) ∈ rows := by
  obtain ⟨before, after, rfl, -⟩ := List.lookup_eq_some_iff.1 h
  simp

/-- A first byte decodes to its row, or is unrecognized (R74, R170). -/
theorem decodeFirst_cases (b : Byte) :
    (b, decodeFirst b) ∈ binaryRows ∨ decodeFirst b = .whole (.binUnrecognized b) := by
  rcases h : binaryRows.lookup b with _ | row
  · exact .inr (by rw [decodeFirst, h]; rfl)
  · exact .inl (by rw [decodeFirst, h]; exact mem_of_lookup_eq_some h)

/-- An event that decodes has a name of one character, and decodes to the row of that character (R81, R180). -/
theorem decodeEvent_ok {e : CmdEvent} {i : Instr} (h : decodeEvent e = .ok i) :
    ∃ c, e.name = [c] ∧ (c, i) ∈ eventRows e.arg := by
  unfold decodeEvent at h
  split at h
  · rename_i c hn
    split at h
    · rename_i row hl
      exact ⟨c, hn, Except.ok.inj h ▸ mem_of_lookup_eq_some hl⟩
    · cases h
  · cases h

theorem decodeEvent_dot {e : CmdEvent} (h : e.name = [0x2E]) : decodeEvent e = .ok .intDot := by
  rw [decodeEvent, h]
  rfl

end Sys2Proof
end

section
/-! PROOFS. `mode` (R21): which effect writes it, and which input reaches that effect. -/

namespace Sys2Proof.Machine

/-- `mode` after an effect. -/
def CmdEffect.modeAfter : CmdEffect → Mode → Mode
  | .setMode m, _ => m
  | .keep, m | .send _, m | .enter, m | .exit, m | .readWord, m | .readBulk _, m => m

theorem CmdEffect.apply_mode (e : CmdEffect) (s : State) : (e.apply s).mode = e.modeAfter s.mode := by
  cases e <;> rfl

theorem exec_mode {i : Instr} {s t : State} (h : exec i s = .next t) : t.mode = (effectOf i).modeAfter s.mode := by
  rw [exec_next h, emit_mode, CmdEffect.apply_mode]

/-- `mode` after a first byte: a command that is whole runs, an opcode with arguments only begins. -/
def modeAfterFirst : FirstByte → Mode → Mode
  | .whole i, m => (effectOf i).modeAfter m
  | .args _, m => m

/-- Of the first bytes only `x` changes `mode` (R168). -/
theorem modeAfterFirst_decodeFirst (b : Byte) (m : Mode) :
    modeAfterFirst (decodeFirst b) m = if b = 0x78 then .interactive else m := by
  have rows : ∀ row ∈ binaryRows, modeAfterFirst row.2 m = if row.1 = 0x78 then .interactive else m := by
    cases m <;> decide
  rcases decodeFirst_cases b with h | h
  · exact rows _ h
  · have hb : b ≠ 0x78 := by
      rintro rfl
      cases h
    rw [h, if_neg hb]
    rfl

/-- Neither command with argument bytes changes `mode`. -/
theorem modeAfter_argOp (op : ArgOp) (arg : Word16) (m : Mode) : (effectOf (op.instr arg)).modeAfter m = m := by
  cases op <;> rfl

/-- Of the events only `.` changes `mode` (R197). -/
theorem modeAfter_decodeEvent {e : CmdEvent} {i : Instr} (h : decodeEvent e = .ok i) (m : Mode) :
    (effectOf i).modeAfter m = if e.name = [0x2E] then .binary else m := by
  obtain ⟨c, hname, hrow⟩ := decodeEvent_ok h
  have rows : ∀ row ∈ eventRows e.arg, (effectOf row.2).modeAfter m = if row.1 = 0x2E then .binary else m := by
    simp [eventRows, effectOf, CmdEffect.modeAfter]
  rw [rows _ hrow, hname]
  simp

/-- `mode` after a step that takes an event (R180, R197). -/
theorem step_mode_of_event {s t : State} {e : CmdEvent} {es : List CmdEvent}
    (hf : fetch s = takeEvent e { s with cmd := es }) (h : step s = .next t) :
    t.mode = if e.name = [0x2E] then .binary else s.mode := by
  rcases takeEvent_cases e { s with cmd := es } with ⟨i, hi, hr⟩ | ⟨err, he, hc⟩
  · rw [step_of_run (hf.trans hr)] at h
    rw [exec_mode h, modeAfter_decodeEvent hi]
  · have hn : e.name ≠ [0x2E] := fun hn => by simp [decodeEvent_dot hn] at he
    rw [step_of_consumed (hf.trans hc)] at h
    cases h
    rw [if_neg hn]

/-- `mode` after a step that takes a byte (R152, R168). -/
theorem step_mode_of_byte {s t : State} {b : Byte} {bs : List Byte}
    (hf : fetch s = takeByte b { s with rx := bs }) (h : step s = .next t) :
    t.mode = if s.pstate = .idle ∧ b = 0x78 then .interactive else s.mode := by
  rcases takeByte_cases b { s with rx := bs } with
    ⟨op, hp, hc⟩ | ⟨op, lo, hp, hr⟩ | ⟨op, hp, hd, hc⟩ | ⟨i, hp, hd, hr⟩
  · rw [step_of_consumed (hf.trans hc)] at h
    cases h
    simp [show s.pstate = .arg1 op from hp]
  · rw [step_of_run (hf.trans hr)] at h
    simp [exec_mode h, modeAfter_argOp, show s.pstate = .arg2 op lo from hp]
  · rw [step_of_consumed (hf.trans hc)] at h
    cases h
    rw [show s.pstate = .idle from hp]
    simpa only [hd, true_and, modeAfterFirst, setPState_mode] using modeAfterFirst_decodeFirst b s.mode
  · rw [step_of_run (hf.trans hr)] at h
    rw [exec_mode h, show s.pstate = .idle from hp]
    simpa only [hd, true_and, modeAfterFirst] using modeAfterFirst_decodeFirst b s.mode

/-- `mode` after any step: the two transitions and no other (R21). -/
theorem step_mode {s t : State} (h : step s = .next t) :
    t.mode =
      if s.mode = .interactive ∧ s.cmd.head?.map CmdEvent.name = some [0x2E] then .binary
      else if s.mode = .binary ∧ s.pstate = .idle ∧ s.rx.head? = some 0x78 then .interactive
      else s.mode := by
  rcases fetch_cases s with ⟨hm, hq, hf⟩ | ⟨e, es, hm, hq, hf⟩ | ⟨hm, hq, hf⟩ | ⟨b, bs, hm, hq, hf⟩
  · rw [step_of_hold hf] at h
    cases h
    simp [hm, hq]
  · simp [step_mode_of_event hf h, hm, hq]
  · rw [step_of_hold hf] at h
    cases h
    simp [hm, hq]
  · simp [step_mode_of_byte hf h, hm, hq]

/-- Settles O6: the two transitions are `step_mode`; the prompt's suppression is read off `mode`. -/
theorem modeChangesOnlyByDotAndX : Obligations.ModeChangesOnlyByDotAndX := by
  unfold Obligations.ModeChangesOnlyByDotAndX
  refine ⟨rfl, fun s => ?_, fun s t h => step_mode h⟩
  rw [State.promptSuppressed, beq_iff_eq]

end Sys2Proof.Machine
end

section
/-! PROOFS. `programMode` (R22): which effect writes it, and that no effect, reply or poll reads it. -/

namespace Sys2Proof.Machine

/-- `programMode` after an effect. -/
def CmdEffect.programModeAfter : CmdEffect → Bool → Bool
  | .enter, _ => true
  | .exit, _ => false
  | .keep, b | .setMode _, b | .send _, b | .readWord, b | .readBulk _, b => b

theorem CmdEffect.apply_programMode (e : CmdEffect) (s : State) :
    (e.apply s).programMode = e.programModeAfter s.programMode := by
  cases e <;> rfl

/-- The commands whose effect writes `programMode` are the enter and the exit commands. -/
theorem programModeAfter_effectOf (i : Instr) (b : Bool) :
    (effectOf i).programModeAfter b =
      if i ∈ enterCommands then true else if i ∈ exitCommands then false else b := by
  cases i <;> simp [effectOf, CmdEffect.programModeAfter, enterCommands, exitCommands]

/-- An effect carries `programMode` along or overwrites it, and does the same to the rest of the state whatever it
is. -/
theorem CmdEffect.apply_setProgramMode (e : CmdEffect) (b : Bool) (s : State) :
    e.apply (setProgramMode b s) = setProgramMode (e.programModeAfter b) (e.apply s) := by
  cases e <;> rfl

theorem replyOf_setProgramMode (i : Instr) (b : Bool) (s : State) : replyOf i (setProgramMode b s) = replyOf i s := by
  cases i <;> rfl

/-- No command reads `programMode`. -/
theorem exec_setProgramMode (i : Instr) (b : Bool) (s : State) :
    ∃ t b', exec i s = .next t ∧ exec i (setProgramMode b s) = .next (setProgramMode b' t) := by
  refine ⟨_, (effectOf i).programModeAfter b, exec_eq i s, ?_⟩
  rw [exec_eq, replyOf_setProgramMode, CmdEffect.apply_setProgramMode]
  rfl

/-- What a poll finds, with a change made to the state it leaves. -/
def Fetched.mapState (f : State → State) : Fetched → Fetched
  | .hold => .hold
  | .consumed s => .consumed (f s)
  | .run i s => .run i (f s)

theorem takeByte_setProgramMode (c : Byte) (b : Bool) (s : State) :
    takeByte c (setProgramMode b s) = (takeByte c s).mapState (setProgramMode b) := by
  unfold takeByte
  rw [setProgramMode_pstate]
  cases s.pstate with
  | arg1 op | arg2 op lo => rfl
  | idle => cases decodeFirst c <;> rfl

theorem takeEvent_setProgramMode (e : CmdEvent) (b : Bool) (s : State) :
    takeEvent e (setProgramMode b s) = (takeEvent e s).mapState (setProgramMode b) := by
  unfold takeEvent
  cases decodeEvent e <;> rfl

/-- No poll reads `programMode`. -/
theorem fetch_setProgramMode (b : Bool) (s : State) :
    fetch (setProgramMode b s) = (fetch s).mapState (setProgramMode b) := by
  rcases fetch_cases s with ⟨hm, hq, hf⟩ | ⟨e, es, hm, hq, hf⟩ | ⟨hm, hq, hf⟩ | ⟨c, cs, hm, hq, hf⟩ <;> rw [hf]
  · simp [fetch, hm, hq, Fetched.mapState]
  · rw [← takeEvent_setProgramMode]
    simp [fetch, hm, hq, setProgramMode]
  · simp [fetch, hm, hq, Fetched.mapState]
  · rw [← takeByte_setProgramMode]
    simp [fetch, hm, hq, setProgramMode]

/-- No step reads `programMode`. -/
theorem step_setProgramMode (b : Bool) (s : State) :
    ∃ t b', step s = .next t ∧ step (setProgramMode b s) = .next (setProgramMode b' t) := by
  have h' := fetch_setProgramMode b s
  rcases h : fetch s with _ | u | ⟨i, u⟩ <;> rw [h] at h'
  · exact ⟨s, b, step_of_hold h, step_of_hold h'⟩
  · exact ⟨u, b, step_of_consumed h, step_of_consumed h'⟩
  · rw [step_of_run h, step_of_run h']
    exact exec_setProgramMode i b u

/-- Settles O7: entry and exit alone write `programMode`, and neither `exec` nor `step` reads it. -/
theorem programModeOnlyByEnterAndExit : Obligations.ProgramModeOnlyByEnterAndExit := by
  unfold Obligations.ProgramModeOnlyByEnterAndExit
  refine ⟨rfl, fun i s t h => ?_, fun i s b => ?_, fun s b => ?_⟩
  · rw [exec_next h, emit_programMode, CmdEffect.apply_programMode, programModeAfter_effectOf]
  · obtain ⟨t, b', h, h'⟩ := exec_setProgramMode i b s
    exact ⟨t, setProgramMode b' t, h, h', rfl⟩
  · obtain ⟨t, b', h, h'⟩ := step_setProgramMode b s
    exact ⟨t, setProgramMode b' t, h, h', rfl⟩

end Sys2Proof.Machine
end

section
/-! SUPPORT. The assembly of a 16-bit argument as arithmetic, and what `r` and `l` decode to with any two bytes after
them (R47, R69, R70). -/

namespace Sys2Proof

/-- The two bytes of `le16` do not overlap, so its "or" is a sum (R47). -/
theorem toNat_le16 (lo hi : Byte) : (le16 lo hi).toNat = lo.toNat + 256 * hi.toNat := by
  have high : hi.toNat <<< 8 % 2 ^ 16 = hi.toNat <<< 8 := Nat.mod_eq_of_lt (by rw [Nat.shiftLeft_eq]; omega)
  calc (le16 lo hi).toNat
      = hi.toNat <<< 8 ||| lo.toNat := by
        rw [le16, BitVec.toNat_or, BitVec.toNat_shiftLeft, BitVec.toNat_setWidth_of_le (by decide),
          BitVec.toNat_setWidth_of_le (by decide), high, Nat.or_comm]
    _ = hi.toNat <<< 8 + lo.toNat := (Nat.shiftLeft_add_eq_or_of_lt lo.isLt _).symm
    _ = lo.toNat + 256 * hi.toNat := by rw [Nat.shiftLeft_eq]; omega

/-- A first byte that asks for arguments takes the next two bytes, low byte first (R70). -/
theorem decodeBytes_of_args {b : Byte} {op : ArgOp} (h : decodeFirst b = .args op) (lo hi : Byte) (rest : List Byte) :
    decodeBytes (b :: lo :: hi :: rest) = .ok (op.instr (le16 lo hi), rest) := by
  rw [decodeBytes, h]

/-- Settles O39: the value is `toNat_le16`, the formula is `binaryArg` itself, and both opcodes take two argument
bytes. -/
theorem binaryArgumentsAreLittleEndian : Obligations.BinaryArgumentsAreLittleEndian := by
  unfold Obligations.BinaryArgumentsAreLittleEndian
  exact fun first second => ⟨toNat_le16 first second, rfl,
    decodeBytes_of_args (op := .r) (by decide) first second [],
    decodeBytes_of_args (op := .l) (by decide) first second []⟩

end Sys2Proof
end

section
/-! PROOFS. A Binary command over the steps that take its bytes (R68, R152, R159), and its encoding. -/

namespace Sys2Proof

/-- The opcode byte of `r` and of `l` (R66, R68). -/
def ArgOp.opcode : ArgOp → Byte
  | .r => 0x72
  | .l => 0x6C

theorem decodeFirst_opcode (op : ArgOp) : decodeFirst op.opcode = .args op := by
  cases op <;> decide

theorem encode_argOp (op : ArgOp) (arg : Word16) : encode (op.instr arg) = encodeB3 op.opcode arg := by
  cases op <;> rfl

theorem encode_argOp_le16 (op : ArgOp) (lo hi : Byte) :
    encode (op.instr (le16 lo hi)) = .bytes [op.opcode, lo, hi] := by
  rw [encode_argOp, encodeB3, lo8_le16, hi8_le16]

end Sys2Proof

namespace Sys2Proof.Machine

/-! ### Runs of a machine, step by step -/

theorem run_succ_of_step {M : Host.Core} {s t : M.State} (h : M.step s = .next t) (k : Nat) :
    M.run (k + 1) s = M.run k t := by
  rw [Host.Core.run, h]

theorem run_one (M : Host.Core) (s : M.State) : M.run 1 s = M.step s := by
  rw [Host.Core.run]
  cases M.step s <;> rfl

/-! ### A Binary step by the argument state -/

theorem fetch_of_byte {s : State} {b : Byte} {bs : List Byte} (hm : s.mode = .binary) (hr : s.rx = b :: bs) :
    fetch s = takeByte b { s with rx := bs } := by
  simp [fetch, hm, hr]

/-- The opcode byte of a command with arguments begins the collection (R159). -/
theorem step_of_opcode {s : State} {b : Byte} {bs : List Byte} {op : ArgOp} (hm : s.mode = .binary)
    (hr : s.rx = b :: bs) (hp : s.pstate = .idle) (hb : decodeFirst b = .args op) :
    step s = .next { s with rx := bs, pstate := .arg1 op } :=
  step_of_consumed ((fetch_of_byte hm hr).trans (by simp [takeByte, hp, hb, setPState]))

/-- The first argument byte is kept undecoded (R68, R159). -/
theorem step_of_arg1 {s : State} {b : Byte} {bs : List Byte} {op : ArgOp} (hm : s.mode = .binary)
    (hr : s.rx = b :: bs) (hp : s.pstate = .arg1 op) :
    step s = .next { s with rx := bs, pstate := .arg2 op b } :=
  step_of_consumed ((fetch_of_byte hm hr).trans (by simp [takeByte, hp, setPState]))

/-- The second argument byte runs the command (R69, R159). -/
theorem step_of_arg2 {s : State} {b lo : Byte} {bs : List Byte} {op : ArgOp} (hm : s.mode = .binary)
    (hr : s.rx = b :: bs) (hp : s.pstate = .arg2 op lo) :
    step s = exec (op.instr (le16 lo b)) { s with rx := bs, pstate := .idle } :=
  step_of_run ((fetch_of_byte hm hr).trans (by simp [takeByte, hp, setPState, binaryArg]))

/-- An opcode with arguments and the two bytes after it, whatever they are, are one command of three steps (R68). -/
theorem core_run_three_of_opcode {s : State} {b lo hi : Byte} {rest : List Byte} {op : ArgOp} (hm : s.mode = .binary)
    (hp : s.pstate = .idle) (hr : s.rx = b :: lo :: hi :: rest) (hb : decodeFirst b = .args op) :
    Sys2Proof.core.run 3 s = exec (op.instr (le16 lo hi)) { s with rx := rest } := by
  have collected : Sys2Proof.core.run 3 s = Sys2Proof.core.run 1 { s with rx := hi :: rest, pstate := .arg2 op lo } :=
    calc Sys2Proof.core.run 3 s
        = Sys2Proof.core.run 2 { s with rx := lo :: hi :: rest, pstate := .arg1 op } :=
          run_succ_of_step (M := Sys2Proof.core) (step_of_opcode hm hr hp hb) 2
      _ = Sys2Proof.core.run 1 { s with rx := hi :: rest, pstate := .arg2 op lo } :=
          run_succ_of_step (M := Sys2Proof.core) (step_of_arg1 (by exact hm) rfl rfl) 1
  have idle : { s with rx := rest } = { s with rx := rest, pstate := .idle } := by rw [← hp]
  rw [collected, idle]
  exact (run_one Sys2Proof.core _).trans (step_of_arg2 (by exact hm) rfl rfl)

/-- Settles O41: the run is `core_run_three_of_opcode`, the bytes are `encode_argOp_le16`. -/
theorem threeBytesRunOneCommand : Obligations.ThreeBytesRunOneCommand := by
  unfold Obligations.ThreeBytesRunOneCommand
  intro s op lo hi rest hm hp hr
  exact ⟨core_run_three_of_opcode hm hp hr (decodeFirst_opcode op), encode_argOp_le16 op lo hi⟩

end Sys2Proof.Machine
end

section
/-! PROOFS. The Binary opcode map (R74): each row, and the count of the bytes without one. -/

namespace Sys2Proof

theorem decodeFirst_of_mem_binaryRows : ∀ row ∈ binaryRows, decodeFirst row.1 = row.2 := by decide

/-- The bytes with a row are the recognized ones, so every other byte is unrecognized (R170) and none of them is. -/
theorem decodeFirst_eq_unrecognized_iff (b : Byte) :
    decodeFirst b = .whole (.binUnrecognized b) ↔ b ∉ recognizedBytes := by
  constructor
  · have rows : ∀ c ∈ recognizedBytes, decodeFirst c ≠ .whole (.binUnrecognized c) := by decide
    exact fun h hb => rows b hb h
  · intro hb
    rcases decodeFirst_cases b with h | h
    · exact absurd (List.mem_map_of_mem (f := Prod.fst) h) hb
    · exact h

/-- Of the numbers below `n`, a list of distinct ones leaves out all but its length. -/
theorem length_filter_notMem_range {n : Nat} {ks : List Nat} (hd : ks.Nodup) (hlt : ∀ k ∈ ks, k < n) :
    ks.length + ((List.range n).filter (· ∉ ks)).length = n := by
  have sub : ks ⊆ List.range n := fun k hk => List.mem_range.2 (hlt k hk)
  have perm : (ks ++ (List.range n).diff ks).Perm (List.range n) :=
    List.subperm_append_diff_self_of_count_le fun k _ => (hd.subperm sub).count_le k
  rw [← List.nodup_range.sdiff_eq_filter, ← List.length_append, perm.length_eq, List.length_range]

theorem ofNat_mem_recognizedBytes_iff {k : Nat} (hk : k < 256) :
    BitVec.ofNat 8 k ∈ recognizedBytes ↔ k ∈ recognizedBytes.map BitVec.toNat := by
  have hn : (BitVec.ofNat 8 k).toNat = k := by simpa using hk
  rw [← List.mem_map_of_injective (f := BitVec.toNat) fun _ _ => BitVec.eq_of_toNat_eq, hn]

/-- 239 of the 256 bytes have no row in the opcode map (R74). -/
theorem count_unrecognized : ((List.range 256).filter fun k =>
    decodeFirst (BitVec.ofNat 8 k) = .whole (.binUnrecognized (BitVec.ofNat 8 k))).length = 239 := by
  have count := length_filter_notMem_range (n := 256) (ks := recognizedBytes.map BitVec.toNat) (by decide) (by decide)
  have rows : (recognizedBytes.map BitVec.toNat).length = 17 := rfl
  have same : ∀ k ∈ List.range 256,
      decide (decodeFirst (BitVec.ofNat 8 k) = .whole (.binUnrecognized (BitVec.ofNat 8 k))) =
        decide (k ∉ recognizedBytes.map BitVec.toNat) := fun k hk => by
    rw [decide_eq_decide, decodeFirst_eq_unrecognized_iff, ofNat_mem_recognizedBytes_iff (List.mem_range.1 hk)]
  rw [List.filter_congr same]
  omega

/-- Settles O47: the rows are `decodeFirst_of_mem_binaryRows`, the bytes without one are
`decodeFirst_eq_unrecognized_iff`, and their number is `count_unrecognized`. -/
theorem byteTableIsComplete : Obligations.ByteTableIsComplete := by
  unfold Obligations.ByteTableIsComplete
  refine ⟨fun row hrow => decodeFirst_of_mem_binaryRows (row.1, .whole row.2) ?_, decodeFirst_opcode .r,
    decodeFirst_opcode .l, fun b => ?_, count_unrecognized⟩
  · revert row
    decide
  · exact (Decidable.em (b ∈ recognizedBytes)).symm.imp (decodeFirst_eq_unrecognized_iff b).2 id

end Sys2Proof
end

section
/-! PROOFS. The bits on DATA during the clock pulses of `send` (R105): one per cycle, in the order sent. -/

namespace Sys2Proof.Machine

/-- A cycle of `send` is one pulse, and DATA carries the cycle's bit during it (R103). -/
theorem pulsedBits_sendCycle_append (b : Bit) (es : List Event) :
    pulsedBits (sendCycle b ++ es) = b :: pulsedBits es := by
  simp [sendCycle, pulsedBits, levelOf_beq_high]

theorem pulsedBits_flatMap_sendCycle_append (bits : List Bit) (es : List Event) :
    pulsedBits (bits.flatMap sendCycle ++ es) = bits ++ pulsedBits es := by
  induction bits with
  | nil => rfl
  | cons b bits ih =>
    rw [List.flatMap_cons, List.append_assoc, pulsedBits_sendCycle_append, ih, List.cons_append]

/-- The start wait and the last DATA LOW are outside every pulse (R104). -/
theorem pulsedBits_sendTrace (bits : List Bit) : pulsedBits (sendTrace bits) = bits := by
  rw [sendTrace, pulsedBits, pulsedBits_flatMap_sendCycle_append]
  · exact List.append_nil bits
  · simp

/-- Settles O53: `send_ok` gives the events, and `pulsedBits_sendTrace` reads the sent bits back from them. -/
theorem sendIsLeastSignificantFirst : Obligations.SendIsLeastSignificantFirst := by
  unfold Obligations.SendIsLeastSignificantFirst
  intro value n s h h'
  refine ⟨_, sendTrace ((List.range n).map value.getLsbD), send_ok h h' value s, rfl, ?_, fun i hi => ?_⟩
  · simp [pulsedBits_sendTrace]
  · simp [pulsedBits_sendTrace, hi]

end Sys2Proof.Machine
end

section
/-! SUPPORT. The events and the samples of a command, read off its effect and its reply: what they depend on, and that
the samples never steer what the block drives (R134, R135). -/

namespace Sys2Proof.Machine

/-! ### Every event of a command -/

/-- The events of an effect that starts in `s`. -/
def CmdEffect.events : CmdEffect → State → List Event
  | .keep, _ | .setMode _, _ => []
  | .send es, _ => es
  | .enter, _ => enterTrace
  | .exit, _ => exitTrace
  | .readWord, s => readWordTrace (nextSamples 16 s)
  | .readBulk n, s => bulkTrace n s

theorem CmdEffect.apply_trace (e : CmdEffect) (s : State) : (e.apply s).trace = s.trace ++ e.events s := by
  cases e with
  | keep | setMode m => exact (List.append_nil _).symm
  | send es | enter | exit | readWord | readBulk n => rfl

/-- The events of a command that starts in `s`: those of its effect, and then its reply (R172). -/
def eventsOf (i : Instr) (s : State) : List Event := (effectOf i).events s ++ replyOf i s

theorem exec_trace {i : Instr} {s t : State} (h : exec i s = .next t) : t.trace = s.trace ++ eventsOf i s := by
  rw [exec_next h, emit_trace, CmdEffect.apply_trace, List.append_assoc, eventsOf]

/-- A command without a reply is its effect and nothing else. -/
theorem exec_of_replyOf_nil {i : Instr} {s : State} (h : replyOf i s = []) :
    exec i s = .next ((effectOf i).apply s) := by
  rw [exec_eq, h, emit_nil]

theorem CmdEffect.events_congr {s t : State} (h : s.smp = t.smp) (h' : s.drawn = t.drawn) (e : CmdEffect) :
    e.events s = e.events t := by
  cases e with
  | keep | setMode m | send es | enter | exit => rfl
  | readWord => exact congrArg readWordTrace (nextSamples_congr h h' 16)
  | readBulk n => exact bulkTrace_congr h h' n

theorem replyOf_congr {s t : State} (h : s.smp = t.smp) (h' : s.drawn = t.drawn) (i : Instr) :
    replyOf i s = replyOf i t := by
  have words : wordAt s = wordAt t := funext (wordAt_congr h h')
  cases i with
  | binR count => simp only [replyOf, bulkBytes, words]
  | intR arg => simp only [replyOf, words]
  | _ => rfl

/-- The events of a command depend on the samples to come and on nothing else of the state. -/
theorem eventsOf_congr {s t : State} (h : s.smp = t.smp) (h' : s.drawn = t.drawn) (i : Instr) :
    eventsOf i s = eventsOf i t :=
  congrArg₂ (· ++ ·) (CmdEffect.events_congr h h' _) (replyOf_congr h h' i)

/-! ### The samples a command takes -/

/-- The words an effect reads from the target. -/
def CmdEffect.wordCount : CmdEffect → Nat
  | .readWord => 1
  | .readBulk n => n
  | .keep | .setMode _ | .send _ | .enter | .exit => 0

theorem wordCount_effectOf (i : Instr) : (effectOf i).wordCount = wordsReadBy i := by
  cases i <;> rfl

/-- 16 samples for each word (R127, R133). -/
theorem CmdEffect.apply_samples (e : CmdEffect) (s : State) :
    (e.apply s).smp = (afterSamples (16 * e.wordCount) s).smp ∧
    (e.apply s).drawn = (afterSamples (16 * e.wordCount) s).drawn := by
  cases e with
  | readWord | readBulk n => exact ⟨rfl, rfl⟩
  | keep | setMode m | send es | enter | exit =>
    rw [CmdEffect.wordCount, Nat.mul_zero, afterSamples_zero]
    exact ⟨rfl, rfl⟩

/-- What the target shows, put in place of what it shows in `s`. -/
def withSamples (bs : List Bit) (d : Nat) (s : State) : State := { s with smp := bs, drawn := d }

/-- A bulk read of no words stores nothing and takes no sample. -/
theorem wordsStored_zero (i : Nat) (s : State) : wordsStored 0 i s = s := by
  simp [wordsStored, wordsRead, bulkTrace, Memory.insertWords]

/-- An effect that reads no word carries the target's samples along. -/
theorem CmdEffect.apply_withSamples {e : CmdEffect} (h : e.wordCount = 0) (bs : List Bit) (d : Nat) (s : State) :
    e.apply (withSamples bs d s) = withSamples bs d (e.apply s) := by
  cases e with
  | keep | setMode m | send es | enter | exit => rfl
  | readWord => exact absurd h one_ne_zero
  | readBulk n =>
    obtain rfl : n = 0 := h
    simp only [CmdEffect.apply, wordsStored_zero]
    rfl

/-- The reply to a command that reads no word shows no sample. -/
theorem replyOf_withSamples {i : Instr} (h : wordsReadBy i = 0) (bs : List Bit) (d : Nat) (s : State) :
    replyOf i (withSamples bs d s) = replyOf i s := by
  cases i with
  | binR count =>
    have none_read : clampCount count = 0 := h
    simp only [replyOf, none_read, bulkBytes, List.range_zero, List.flatMap_nil]
  | intR arg =>
    have none_read : clampCount (argValue Config.wideArg arg Config.rCountDefault) = 0 := h
    simp only [replyOf, none_read, listingBytes, List.range_zero, List.flatMap_nil]
  | _ => rfl

/-- A command that reads no word does not look at the target. -/
theorem exec_withSamples {i : Instr} (h : wordsReadBy i = 0) (bs : List Bit) (d : Nat) (s : State) :
    ∃ t, exec i s = .next t ∧ exec i (withSamples bs d s) = .next (withSamples bs d t) := by
  refine ⟨_, exec_eq i s, ?_⟩
  rw [exec_eq, replyOf_withSamples h, CmdEffect.apply_withSamples ((wordCount_effectOf i).trans h)]
  rfl

/-! ### What the block drives -/

/-- What a read drives is the same in every cycle: of the samples only their number shows. -/
theorem driven_flatMap_readCycle (samples : List Bit) :
    (samples.flatMap readCycle).filter Event.isDriven =
      (List.replicate samples.length
        [Event.lvl .clock .high, .wait .tBit, .lvl .clock .low, .wait .tBit]).flatten := by
  have cycle (b : Bit) : (readCycle b).filter Event.isDriven =
      [.lvl .clock .high, .wait .tBit, .lvl .clock .low, .wait .tBit] := rfl
  rw [List.filter_flatMap, List.flatMap_def]
  simp only [cycle, List.map_const']

theorem driven_readWordTrace_congr {samples samples' : List Bit} (h : samples.length = samples'.length) :
    (readWordTrace samples).filter Event.isDriven = (readWordTrace samples').filter Event.isDriven := by
  simp only [readWordTrace, readTrace, List.filter_append, List.filter_cons, driven_flatMap_readCycle, h]

/-- What an effect drives is the same from every state, whatever the samples are. -/
theorem CmdEffect.driven_events (e : CmdEffect) (s t : State) :
    (e.events s).filter Event.isDriven = (e.events t).filter Event.isDriven := by
  have word (u v : State) :
      (readWordTrace (nextSamples 16 u)).filter Event.isDriven =
        (readWordTrace (nextSamples 16 v)).filter Event.isDriven :=
    driven_readWordTrace_congr ((length_nextSamples 16 u).trans (length_nextSamples 16 v).symm)
  cases e with
  | keep | setMode m | send es | enter | exit => rfl
  | readWord => exact word s t
  | readBulk n =>
    simp only [CmdEffect.events, bulkTrace, List.filter_flatMap, List.filter_append]
    exact List.flatMap_congr fun i _ => congrArg (· ++ _) (word (afterSamples (16 * i) s) (afterSamples (16 * i) t))

/-- A reply is bytes on the transport or on the console, and nothing else. -/
theorem replyOf_bytes (i : Instr) (s : State) :
    ∃ bs : List Byte, replyOf i s = bs.map .tx ∨ replyOf i s = bs.map .out := by
  cases i with
  | binP | binQ | binZero | binI | binC | binL _ | binE | binA | binW | binB | binF => exact ⟨[0x00, 0x00], .inl rfl⟩
  | binR _ | binV | binX => exact ⟨_, .inl rfl⟩
  | binUnrecognized _ => exact ⟨[0x3F], .inl rfl⟩
  | intR _ => exact ⟨_, .inr rfl⟩
  | _ => exact ⟨[], .inl rfl⟩

/-- A reply drives no pin (R172). -/
theorem driven_replyOf (i : Instr) (s : State) : (replyOf i s).filter Event.isDriven = [] := by
  obtain ⟨bs, h | h⟩ := replyOf_bytes i s <;> simp [h, List.filter_eq_nil_iff, Event.isDriven]

/-- What a command does on the pins, and where it waits, is the same from every state (R135). -/
theorem driven_eventsOf (i : Instr) (s t : State) :
    (eventsOf i s).filter Event.isDriven = (eventsOf i t).filter Event.isDriven := by
  simp only [eventsOf, List.filter_append, driven_replyOf, List.append_nil]
  exact CmdEffect.driven_events (effectOf i) s t

end Sys2Proof.Machine
end

section
/-! SUPPORT. The events of a transfer counted and read back as bits (R104, R105, R125). -/

namespace Sys2Proof.Machine

theorem length_sendTrace (bits : List Bit) : (sendTrace bits).length = 5 * bits.length + 2 := by
  simp [sendTrace, sendCycle, Nat.mul_comm]

/-- A code is 32 events (R120). -/
theorem length_cmdTrace (c : BitVec 6) : (cmdTrace c).length = 32 := by
  rw [cmdTrace, length_sendTrace, length_wireBits]

/-- A code, the gap and a payload are 115 events (R125, R126). -/
theorem length_loadTrace (c : BitVec 6) (p : Word16) : (loadTrace c p).length = 115 := by
  rw [loadTrace, List.length_append, List.length_cons, length_cmdTrace, length_sendTrace, length_wireBits]

/-- The pulses of a transfer are followed by those of what comes after it. -/
theorem pulsedBits_sendTrace_append (bits : List Bit) (es : List Event) :
    pulsedBits (sendTrace bits ++ es) = bits ++ pulsedBits es := by
  simp [sendTrace, pulsedBits, pulsedBits_flatMap_sendCycle_append]

theorem pulsedBits_cmdTrace (c : BitVec 6) : pulsedBits (cmdTrace c) = wireBits c :=
  pulsedBits_sendTrace (wireBits c)

/-- A settle wait after a code is no pulse. -/
theorem pulsedBits_cmdTrace_wait (c : BitVec 6) (t : Duration) :
    pulsedBits (cmdTrace c ++ [.wait t]) = wireBits c := by
  simp [cmdTrace, pulsedBits_sendTrace_append, pulsedBits]

theorem pulsedBits_loadTrace (c : BitVec 6) (p : Word16) :
    pulsedBits (loadTrace c p) = wireBits c ++ wireBits p := by
  simp [loadTrace, cmdTrace, pulsedBits_sendTrace_append, pulsedBits, pulsedBits_sendTrace]

end Sys2Proof.Machine
end

section
/-! PROOFS. The target commands as such: no guard on `programMode` and the directions (R134), the target looked at by
reads alone (R135), and the address, erase, programming-cycle and load-configuration commands (R123-R125, R128-R132). -/

namespace Sys2Proof.Machine

/-- Settles O9: the events depend on the samples to come alone, by `eventsOf_congr`. -/
theorem noGuardOnProgramMode : Obligations.NoGuardOnProgramMode := by
  unfold Obligations.NoGuardOnProgramMode
  intro i s b d d'
  have h := exec_eq i s
  have h' := exec_eq i { s with programMode := b, dirCLK := d, dirDATA := d' }
  have same : eventsOf i { s with programMode := b, dirCLK := d, dirDATA := d' } = eventsOf i s :=
    eventsOf_congr (by rfl) (by rfl) i
  refine ⟨_, _, h, h', ?_⟩
  rw [exec_trace h, exec_trace h', same]

/-- Settles O10: the samples are counted by `CmdEffect.apply_samples`, a command that reads no word is
`exec_withSamples`, and what is driven is `driven_eventsOf`. -/
theorem onlyReadsLookAtTheTarget : Obligations.OnlyReadsLookAtTheTarget := by
  unfold Obligations.OnlyReadsLookAtTheTarget
  refine ⟨fun i s => ⟨_, exec_eq i s, ?_⟩, fun i s bs d hi => exec_withSamples hi bs d s, fun i s bs d => ?_⟩
  · rw [← wordCount_effectOf]
    exact (effectOf i).apply_samples s
  · have h := exec_eq i s
    have h' := exec_eq i (withSamples bs d s)
    exact ⟨_, _, _, _, h, h', exec_trace h, exec_trace (s := withSamples bs d s) h', driven_eventsOf i s _⟩

/-- Settles O15: both commands are their code with no reply, and a word of the bulk read ends with the increment. -/
theorem addressCommandsSendTheirCode : Obligations.AddressCommandsSendTheirCode := by
  unfold Obligations.AddressCommandsSendTheirCode
  refine fun s => ⟨exec_of_replyOf_nil rfl, exec_of_replyOf_nil rfl, by decide, by decide,
    (pulsedBits_cmdTrace 0x16).trans (by decide), (pulsedBits_cmdTrace 0x06).trans (by decide),
    length_cmdTrace 0x16, length_cmdTrace 0x06, by decide, by decide,
    fun i => ⟨_, _, _, readWord_ok s, incAddress_ok _, ?_⟩⟩
  rw [readOneWord, readWord_ok, ok_bind]
  exact incAddress_ok _

/-- Settles O16: each row is its code and its wait with no reply; the bits and the number of events hold of every code
and every wait. -/
theorem timedCommandsSendCodeThenWait : Obligations.TimedCommandsSendCodeThenWait := by
  unfold Obligations.TimedCommandsSendCodeThenWait
  refine ⟨fun row hrow => ?_, by decide, fun start bit unit => ⟨rfl, rfl, rfl, rfl, rfl⟩⟩
  have count : (cmdTrace row.2.1 ++ [Event.wait row.2.2]).length = 33 := by
    rw [List.length_append, length_cmdTrace, List.length_singleton]
  suffices encode row.1 = .wire (wireBits row.2.1) ∧
      ∀ s, exec row.1 s = .next (sent (cmdTrace row.2.1 ++ [Event.wait row.2.2]) s) from
    ⟨this.1, pulsedBits_cmdTrace_wait row.2.1 row.2.2, count, this.2⟩
  simp only [List.mem_cons, List.not_mem_nil, or_false] at hrow
  rcases hrow with rfl | rfl | rfl | rfl | rfl <;> exact ⟨rfl, fun s => exec_of_replyOf_nil rfl⟩

/-- Settles O17: code and payload are both zero, and the payload is no input of the command. -/
theorem loadConfigSendsZeroPayload : Obligations.LoadConfigSendsZeroPayload := by
  unfold Obligations.LoadConfigSendsZeroPayload
  have zeros : wireBits (0x00 : BitVec 6) ++ wireBits (0 : Word16) = List.replicate 22 false := by decide
  exact ⟨fun s => exec_of_replyOf_nil rfl, congrArg Code.wire zeros, by decide,
    (pulsedBits_loadTrace 0x00 0).trans zeros, length_loadTrace 0x00 0⟩

end Sys2Proof.Machine
end

section
/-! SUPPORT. The events of an effect are on the pins alone, so none is a byte on the transport (R6, R7, R172). -/

namespace Sys2Proof.Machine

theorem isPin_sendTrace (bits : List Bit) : ∀ e ∈ sendTrace bits, e.isPin := by
  have cycles : ∀ e ∈ bits.flatMap sendCycle, e.isPin :=
    List.forall_mem_flatMap.2 fun b _ => by cases b <;> decide
  exact List.forall_mem_cons.2 ⟨rfl, List.forall_mem_append.2 ⟨cycles, by decide⟩⟩

theorem isPin_cmdTrace (c : BitVec 6) : ∀ e ∈ cmdTrace c, e.isPin := isPin_sendTrace (wireBits c)

/-- A settle wait after a code is an event of the pin interface (R6, R128-R132). -/
theorem isPin_cmdTrace_wait (c : BitVec 6) (t : Duration) : ∀ e ∈ cmdTrace c ++ [.wait t], e.isPin :=
  List.forall_mem_append.2 ⟨isPin_cmdTrace c, List.forall_mem_singleton.2 rfl⟩

theorem isPin_loadTrace (c : BitVec 6) (p : Word16) : ∀ e ∈ loadTrace c p, e.isPin :=
  List.forall_mem_append.2 ⟨isPin_cmdTrace c, List.forall_mem_cons.2 ⟨rfl, isPin_sendTrace (wireBits p)⟩⟩

theorem isPin_enterTrace : ∀ e ∈ enterTrace, e.isPin :=
  List.forall_mem_append.2 ⟨List.forall_mem_append.2 ⟨by decide, isPin_sendTrace (wireBits Config.enterKey)⟩, by decide⟩

theorem isPin_exitTrace : ∀ e ∈ exitTrace, e.isPin := by decide

theorem isPin_readTrace (samples : List Bit) : ∀ e ∈ readTrace samples, e.isPin := by
  have cycles : ∀ e ∈ samples.flatMap readCycle, e.isPin :=
    List.forall_mem_flatMap.2 fun b _ => by cases b <;> decide
  exact List.forall_mem_cons.2 ⟨rfl, List.forall_mem_append.2 ⟨cycles, by decide⟩⟩

theorem isPin_readWordTrace (samples : List Bit) : ∀ e ∈ readWordTrace samples, e.isPin :=
  List.forall_mem_append.2 ⟨isPin_cmdTrace 0x04, List.forall_mem_cons.2
    ⟨rfl, List.forall_mem_append.2 ⟨isPin_readTrace samples, List.forall_mem_singleton.2 rfl⟩⟩⟩

theorem isPin_bulkTrace (n : Nat) (s : State) : ∀ e ∈ bulkTrace n s, e.isPin :=
  List.forall_mem_flatMap.2 fun i _ =>
    List.forall_mem_append.2 ⟨isPin_readWordTrace (samplesAt s i), isPin_cmdTrace 0x06⟩

/-- Whatever a command does before its reply shows on the pins alone (R172). -/
theorem isPin_events_effectOf (i : Instr) (s : State) : ∀ e ∈ (effectOf i).events s, e.isPin := by
  cases i with
  | binP | intP | icspEnterProgramMode => exact isPin_enterTrace
  | binQ | intQ | icspExitProgramMode => exact isPin_exitTrace
  | binZero | intZero | icspResetAddress | binI | intI | icspIncAddress => exact isPin_cmdTrace _
  | binC | intC | icspLoadConfig | binL _ | icspLoadData _ | intL _ => exact isPin_loadTrace _ _
  | binE | intE | icspEraseRow | binA | intA | icspEraseAll | binW | intW | icspBeginIntProg
  | binB | intB | icspBeginExtProg | binF | intF | icspEndExtProg => exact isPin_cmdTrace_wait _ _
  | icspReadWord => exact isPin_readWordTrace _
  | binR _ | intR _ => exact isPin_bulkTrace _ s
  | binV | binX | binCr | binLf | binSpace | binUnrecognized _ | intDot => exact List.forall_mem_nil _

/-- Pin events put no byte on the transport (R7). -/
theorem txBytes_eq_nil_of_isPin {es : List Event} (h : ∀ e ∈ es, e.isPin) : txBytes es = [] := by
  induction es with
  | nil => rfl
  | cons e es ih =>
    obtain ⟨he, hes⟩ := List.forall_mem_cons.1 h
    cases e with
    | dir _ _ | lvl _ _ | smp _ | wait _ => exact ih hes
    | tx _ | out _ => cases he

end Sys2Proof.Machine
end

section
/-! PROOFS. The commands that run a target command and then ack (R153-R158, R161-R166), and what a Binary step does with
its byte by the argument state (R152, R159, R169, R170). -/

namespace Sys2Proof.Machine

/-! ### A target command, then the ack -/

/-- A command with the effect of a silent one and the ack as its reply runs that one and then acks (R153). -/
theorem exec_runs_then_acks {i target : Instr} (same : effectOf i = effectOf target)
    (acks : ∀ s, replyOf i s = ackTrace) (silent : ∀ s, replyOf target s = []) (s : State) :
    ∃ t es, exec target s = .next t ∧ t.trace = s.trace ++ es ∧ txBytes es = [] ∧
      exec i s = .next { t with trace := t.trace ++ [.tx 0x00, .tx 0x00] } := by
  refine ⟨_, _, exec_of_replyOf_nil (silent s), CmdEffect.apply_trace _ s,
    txBytes_eq_nil_of_isPin (isPin_events_effectOf target s), ?_⟩
  rw [exec_eq, acks, same]
  rfl

/-- `programMode` after a command is what its effect makes of it (R22). -/
theorem exec_programMode {i : Instr} {s t : State} (h : exec i s = .next t) :
    t.programMode = (effectOf i).programModeAfter s.programMode := by
  rw [exec_next h, emit_programMode, CmdEffect.apply_programMode]

/-- Settles O21: each row has its target command's effect and the ack as its reply. -/
theorem ackCommandsRunThenAck : Obligations.AckCommandsRunThenAck := by
  unfold Obligations.AckCommandsRunThenAck
  refine ⟨fun row hrow => ?_, fun s t h => exec_programMode h, fun s t h => exec_programMode h, ack_eq,
    (decodeFirst_eq_unrecognized_iff 0x00).2 (by decide)⟩
  simp only [List.mem_cons, List.not_mem_nil, or_false] at hrow
  rcases hrow with rfl | rfl | rfl | rfl | rfl | rfl | rfl | rfl | rfl | rfl <;>
    exact ⟨rfl, exec_runs_then_acks rfl (fun _ => rfl) (fun _ => rfl)⟩

/-- Settles O22: two steps collect, the third runs `binL`, which is load data and then the ack. -/
theorem binaryLoadRunsOnThirdByte : Obligations.BinaryLoadRunsOnThirdByte := by
  unfold Obligations.BinaryLoadRunsOnThirdByte
  refine ⟨fun value s => ?_, fun s rest hm hp hr => step_of_opcode hm hr hp (decodeFirst_opcode .l),
    fun s lo rest hm hp hr => step_of_arg1 hm hr hp, fun s lo hi rest hm hp hr => step_of_arg2 hm hr hp⟩
  obtain ⟨t, _, target, _, _, binary⟩ :=
    exec_runs_then_acks (i := .binL value) (target := .icspLoadData value) rfl (fun _ => rfl) (fun _ => rfl) s
  exact ⟨t, target, binary⟩

/-! ### Bytes taken between commands -/

/-- Between commands a byte that is a whole command runs it (R152). -/
theorem step_of_whole {s : State} {b : Byte} {bs : List Byte} {i : Instr} (hm : s.mode = .binary)
    (hr : s.rx = b :: bs) (hp : s.pstate = .idle) (hb : decodeFirst b = .whole i) :
    step s = exec i { s with rx := bs } :=
  step_of_run ((fetch_of_byte hm hr).trans (by simp [takeByte, hp, hb]))

/-- A command with neither effect nor reply changes nothing. -/
theorem exec_eq_self {i : Instr} (keeps : effectOf i = .keep) (silent : ∀ s, replyOf i s = []) (s : State) :
    exec i s = .next s := by
  rw [exec_of_replyOf_nil (silent s), keeps]
  rfl

/-- CR, LF and space are whole commands that change nothing (R169). -/
theorem ignored_byte_decodes : ∀ b ∈ ([0x0D, 0x0A, 0x20] : List Byte),
    ∃ i, decodeFirst b = .whole i ∧ ∀ s, exec i s = .next s := by
  simp only [List.forall_mem_cons]
  exact ⟨⟨.binCr, rfl, exec_eq_self rfl fun _ => rfl⟩, ⟨.binLf, rfl, exec_eq_self rfl fun _ => rfl⟩,
    ⟨.binSpace, rfl, exec_eq_self rfl fun _ => rfl⟩, List.forall_mem_nil _⟩

/-- Settles O26: between commands by `ignored_byte_decodes`; inside one the step does not decode the byte. -/
theorem ignoredBytesDoNothing : Obligations.IgnoredBytesDoNothing := by
  unfold Obligations.IgnoredBytesDoNothing
  refine ⟨fun s => ⟨exec_eq_self rfl (fun _ => rfl) s, exec_eq_self rfl (fun _ => rfl) s,
    exec_eq_self rfl (fun _ => rfl) s⟩, fun b hb s rest hm hr => ⟨fun hp => ?_, fun op hp => step_of_arg1 hm hr hp,
    fun op lo hp => step_of_arg2 hm hr hp⟩⟩
  obtain ⟨i, decodes, ignored⟩ := ignored_byte_decodes b hb
  rw [step_of_whole hm hr hp decodes, ignored]

/-- Settles O27: the reply is all there is to the command, and no upper-case letter has a row. -/
theorem unrecognizedByteGetsQuestionMark : Obligations.UnrecognizedByteGetsQuestionMark := by
  unfold Obligations.UnrecognizedByteGetsQuestionMark
  have no_capital : ∀ b ∈ recognizedBytes, ¬ (0x41 ≤ b.toNat ∧ b.toNat ≤ 0x5A) := by decide
  exact ⟨fun b => exec_eq (.binUnrecognized b), fun b => (decodeFirst_eq_unrecognized_iff b).2, by decide,
    fun b low high hb => no_capital b hb ⟨low, high⟩⟩

/-- A byte that decodes to a command with nothing after it is a whole command (R70). -/
theorem decodeFirst_of_decodeBytes_singleton {b : Byte} {i : Instr} (h : decodeBytes [b] = .ok (i, [])) :
    decodeFirst b = .whole i := by
  rw [decodeBytes] at h
  cases hb : decodeFirst b with
  | whole j =>
    rw [hb] at h
    cases h
    rfl
  | args op =>
    rw [hb] at h
    cases h

/-- Settles O40: one lemma on the step for each argument state. -/
theorem stepRunsTheDecodedByte : Obligations.StepRunsTheDecodedByte := by
  unfold Obligations.StepRunsTheDecodedByte
  intro s b rest hm hr
  refine ⟨fun op hp => step_of_arg1 hm hr hp, fun lo hp => step_of_arg2 hm hr hp, fun lo hp => step_of_arg2 hm hr hp,
    fun hp hb => ?_, fun hp hb => ?_,
    fun hp i hi => step_of_whole hm hr hp (decodeFirst_of_decodeBytes_singleton hi)⟩
  · exact step_of_opcode hm hr hp (hb ▸ decodeFirst_opcode .r)
  · exact step_of_opcode hm hr hp (hb ▸ decodeFirst_opcode .l)

end Sys2Proof.Machine
end

section
/-! SUPPORT. The rows of the event table read forwards (R81, R180), the argument of an Interactive command (R181-R183),
and the two commands that take one (R189, R191). -/

namespace Sys2Proof

/-- The name of a row with any argument decodes to that row's command (R81, R198). -/
theorem decodeEvent_of_mem_eventRows (arg : Option Token) :
    ∀ row ∈ eventRows arg, decodeEvent ⟨[row.1], arg⟩ = .ok row.2 := by
  simp only [eventRows, List.forall_mem_cons]
  exact ⟨rfl, rfl, rfl, rfl, rfl, rfl, rfl, rfl, rfl, rfl, rfl, rfl, rfl, List.forall_mem_nil _⟩

end Sys2Proof

namespace Sys2Proof.Machine

/-- Without a parsed value the default counts (R182). -/
theorem argValue_of_parse_none {arg : Option Token} (h : arg.bind parseArg = none) (wide : WideArg) (d : Word16) :
    argValue wide arg d = d := by
  rw [argValue, h]

/-- A parsed value of 16 bits counts as it is, whatever `WIDE_ARG` is (R183). -/
theorem argValue_of_parse_lt {arg : Option Token} {n : Nat} (h : arg.bind parseArg = some n) (hn : n < 2 ^ 16)
    (wide : WideArg) (d : Word16) : argValue wide arg d = BitVec.ofNat 16 n := by
  rw [argValue, h]
  exact if_pos hn

/-- Two commands with one effect and one reply do the same. -/
theorem exec_congr {i j : Instr} {s : State} (effect : effectOf i = effectOf j) (reply : replyOf i s = replyOf j s) :
    exec i s = exec j s := by
  rw [exec_eq, exec_eq, effect, reply]

/-- Interactive `l` is the load of its argument's value (R191). -/
theorem exec_intL_eq_icspLoadData (arg : Option Token) (s : State) :
    exec (.intL arg) s = exec (.icspLoadData (argValue Config.wideArg arg 0)) s :=
  exec_congr rfl rfl

/-- Interactive `r` depends on the value of its argument alone (R189). -/
theorem exec_intR_congr {arg arg' : Option Token}
    (h : argValue Config.wideArg arg Config.rCountDefault = argValue Config.wideArg arg' Config.rCountDefault)
    (s : State) : exec (.intR arg) s = exec (.intR arg') s :=
  exec_congr (by simp only [effectOf, h]) (by simp only [replyOf, h])

/-- `respLen` after an Interactive `r` (R23, R189). -/
theorem exec_intR_respLen {arg : Option Token} {s t : State} (h : exec (.intR arg) s = .next t) :
    t.respLen = BitVec.ofNat 16 (2 * clampCount (argValue Config.wideArg arg Config.rCountDefault)) := by
  rw [exec_next h]
  rfl

end Sys2Proof.Machine
end

section
/-! PROOFS. The Interactive commands against the target commands they run (R184-R188, R191-R198), and the default of an
argument (R182). -/

namespace Sys2Proof.Machine

/-- A command with the effect of a target command, and no reply as that one has none, runs it with pin events alone
(D18). -/
theorem exec_runs_silently {i target : Instr} {s : State} (same : effectOf i = effectOf target)
    (silent : replyOf i s = []) (target_silent : replyOf target s = []) :
    ∃ t es, exec target s = .next t ∧ exec i s = .next t ∧ t.trace = s.trace ++ es ∧ ∀ e ∈ es, e.isPin :=
  have runs := exec_of_replyOf_nil target_silent
  ⟨_, _, runs, (exec_congr same (silent.trans target_silent.symm)).trans runs, CmdEffect.apply_trace _ s,
    isPin_events_effectOf target s⟩

/-- Settles O31: each row has its target command's effect and no reply, and its name a row of the event table that drops
the argument. -/
theorem interactiveCommandsRunTargetCommands : Obligations.InteractiveCommandsRunTargetCommands := by
  unfold Obligations.InteractiveCommandsRunTargetCommands
  refine ⟨fun row hrow => ?_, fun s t h => exec_programMode h, fun s t h => ⟨exec_programMode h, ?_⟩⟩
  · suffices (∀ arg, (row.1, row.2.1) ∈ eventRows arg) ∧ effectOf row.2.1 = effectOf row.2.2 ∧
        ∀ s, replyOf row.2.1 s = [] ∧ replyOf row.2.2 s = [] by
      obtain ⟨in_table, same, silent⟩ := this
      exact ⟨fun arg => decodeEvent_of_mem_eventRows arg _ (in_table arg),
        fun s => (silent s).elim (exec_runs_silently same)⟩
    simp only [List.mem_cons, List.not_mem_nil, or_false] at hrow
    rcases hrow with rfl | rfl | rfl | rfl | rfl | rfl | rfl | rfl | rfl | rfl <;>
      exact ⟨fun arg => by simp [eventRows], rfl, fun s => ⟨rfl, rfl⟩⟩
  · rw [exec_trace h, List.length_append]
    rfl

/-- Settles O32: the argument's value is the value loaded, and the three rows are its default and two `0x` values. -/
theorem interactiveLoadUsesArgument : Obligations.InteractiveLoadUsesArgument := by
  unfold Obligations.InteractiveLoadUsesArgument
  refine ⟨fun arg => decodeEvent_of_mem_eventRows arg (0x6C, .intL arg) (by simp [eventRows]),
    fun arg s => ⟨_, exec_eq _ s, (exec_intL_eq_icspLoadData arg s).trans (exec_eq _ s)⟩, fun row hrow s => ?_⟩
  suffices argValue Config.wideArg row.1 0 <<< 1 = row.2 by
    rw [exec_intL_eq_icspLoadData, ← this]
    exact exec_of_replyOf_nil rfl
  simp only [List.mem_cons, List.not_mem_nil, or_false] at hrow
  rcases hrow with rfl | rfl | rfl
  · rw [argValue_of_parse_none rfl]
    rfl
  · rw [argValue_of_parse_lt (n := 0x4000) rfl (by decide)]
    rfl
  · rw [argValue_of_parse_lt (n := 0x1234) rfl (by decide)]
    rfl

/-- Settles O35: a transition of `mode` is all the effect of `.`. -/
theorem dotSwitchesToBinary : Obligations.DotSwitchesToBinary := by
  unfold Obligations.DotSwitchesToBinary
  exact ⟨fun arg => decodeEvent_dot rfl, fun s => exec_of_replyOf_nil rfl⟩

/-- Settles O36: the bad argument and the default written out have one value, and a command depends on that alone. -/
theorem badArgumentsTakeTheDefault : Obligations.BadArgumentsTakeTheDefault := by
  unfold Obligations.BadArgumentsTakeTheDefault
  intro arg bad
  have default_taken := argValue_of_parse_none bad
  refine ⟨default_taken, fun s => ?_, fun s => ?_⟩
  · have one : argValue Config.wideArg (some [0x31]) Config.rCountDefault = 1 :=
      argValue_of_parse_lt (n := 1) rfl (by decide) _ _
    have runs := exec_eq (.intR (some [0x31])) s
    refine ⟨_, runs, (exec_intR_congr ((default_taken _ _).trans one.symm) s).trans runs, ?_⟩
    rw [exec_intR_respLen runs, one]
    rfl
  · have zero : argValue Config.wideArg (some [0x30]) 0 = 0 := argValue_of_parse_lt (n := 0) rfl (by decide) _ _
    have runs := exec_eq (.icspLoadData 0) s
    have loads (a : Option Token) (h : argValue Config.wideArg a 0 = 0) :
        exec (.intL a) s = exec (.icspLoadData 0) s := by
      rw [exec_intL_eq_icspLoadData, h]
    exact ⟨_, (loads _ zero).trans runs, (loads arg (default_taken _ 0)).trans runs, runs⟩

end Sys2Proof.Machine
end

section
/-! SUPPORT. What an effect leaves of each register, and which commands have which effect (R20, R21, R30). -/

namespace Sys2Proof.Machine

/-! ### No effect writes the argument state, the LED or the input queues -/

@[simp] theorem CmdEffect.apply_pstate (e : CmdEffect) (s : State) : (e.apply s).pstate = s.pstate := by
  cases e <;> rfl

@[simp] theorem CmdEffect.apply_lvlLED (e : CmdEffect) (s : State) : (e.apply s).lvlLED = s.lvlLED := by
  cases e <;> rfl

@[simp] theorem CmdEffect.apply_rx (e : CmdEffect) (s : State) : (e.apply s).rx = s.rx := by
  cases e <;> rfl

@[simp] theorem CmdEffect.apply_cmd (e : CmdEffect) (s : State) : (e.apply s).cmd = s.cmd := by
  cases e <;> rfl

theorem exec_pstate {i : Instr} {s t : State} (h : exec i s = .next t) : t.pstate = s.pstate := by
  rw [exec_next h, emit_pstate, CmdEffect.apply_pstate]

theorem exec_rx {i : Instr} {s t : State} (h : exec i s = .next t) : t.rx = s.rx := by
  rw [exec_next h, emit_rx, CmdEffect.apply_rx]

theorem exec_cmd {i : Instr} {s t : State} (h : exec i s = .next t) : t.cmd = s.cmd := by
  rw [exec_next h, emit_cmd, CmdEffect.apply_cmd]

/-- 16 samples for each word a command reads (R127, R133). -/
theorem exec_samples {i : Instr} {s t : State} (h : exec i s = .next t) :
    t.smp = (afterSamples (16 * wordsReadBy i) s).smp ∧ t.drawn = (afterSamples (16 * wordsReadBy i) s).drawn := by
  rw [exec_next h, emit_smp, emit_drawn, ← wordCount_effectOf]
  exact (effectOf i).apply_samples s

/-! ### Bounds of a bulk read -/

/-- No command reads more than `READ_MAX` words (R8, R133). -/
theorem wordsReadBy_le (i : Instr) : wordsReadBy i ≤ 1024 := by
  cases i with
  | binR count | intR arg => exact clampCount_le _
  | icspReadWord => exact Nat.one_le_ofNat
  | _ => exact Nat.zero_le _

/-- `respLen` holds twice a clamped count exactly. -/
theorem toNat_two_mul_of_le {n : Nat} (h : n ≤ 1024) : (BitVec.ofNat 16 (2 * n)).toNat = 2 * n :=
  by
  rw [BitVec.toNat_ofNat]
  omega

end Sys2Proof.Machine
end

section
/-! SUPPORT. What a poll leaves: the input unit is taken from the port that `mode` names, and but for it and the
argument state nothing changes (R13, R150, R159). -/

namespace Sys2Proof.Machine

/-- The block has no step exactly where the port that `mode` names is empty (R204). -/
theorem hasNoStep_iff {s : State} :
    s.hasNoStep ↔ (s.mode = .interactive ∧ s.cmd = []) ∨ (s.mode = .binary ∧ s.rx = []) := by
  simp only [State.hasNoStep, State.idleInteractive, State.atRest, State.held]
  tauto

theorem fetch_of_hasNoStep {s : State} (h : s.hasNoStep) : fetch s = .hold := by
  rcases hasNoStep_iff.1 h with ⟨hm, hq⟩ | ⟨hm, hq⟩ <;> simp [fetch, hm, hq]

theorem fetch_of_event {s : State} {e : CmdEvent} {es : List CmdEvent} (hm : s.mode = .interactive)
    (hq : s.cmd = e :: es) : fetch s = takeEvent e { s with cmd := es } := by
  simp [fetch, hm, hq]

/-- The state with the next input unit taken (R150). -/
def unitTaken (s : State) : State :=
  match s.mode with
  | .interactive => { s with cmd := s.cmd.tail }
  | .binary => { s with rx := s.rx.tail }

theorem unitTaken_of_interactive {s : State} (h : s.mode = .interactive) :
    unitTaken s = { s with cmd := s.cmd.tail } := by
  simp [unitTaken, h]

theorem unitTaken_of_binary {s : State} (h : s.mode = .binary) : unitTaken s = { s with rx := s.rx.tail } := by
  simp [unitTaken, h]

@[simp] theorem unitTaken_trace (s : State) : (unitTaken s).trace = s.trace := by
  unfold unitTaken
  split <;> rfl

/-- Everything a poll can find, and what it leaves: the hold, or one unit taken that completes no command, or one that
completes a command, which leaves Binary mode with no command begun. -/
theorem fetch_taken (s : State) :
    (fetch s = .hold ∧ s.hasNoStep) ∨
    (∃ p, (s.mode = .interactive → p = s.pstate) ∧ fetch s = .consumed (setPState p (unitTaken s))) ∨
    ∃ i p, (s.mode = .interactive → p = s.pstate) ∧ (s.mode = .binary → p = .idle) ∧
      fetch s = .run i (setPState p (unitTaken s)) := by
  rcases fetch_cases s with ⟨hm, hq, hf⟩ | ⟨e, es, hm, hq, hf⟩ | ⟨hm, hq, hf⟩ | ⟨b, bs, hm, hq, hf⟩
  · exact .inl ⟨hf, hasNoStep_iff.2 (.inl ⟨hm, hq⟩)⟩
  · have taken : { s with cmd := es } = setPState s.pstate (unitTaken s) := by
      rw [unitTaken_of_interactive hm, hq]
      rfl
    rw [taken] at hf
    rcases takeEvent_cases e (setPState s.pstate (unitTaken s)) with ⟨i, -, hr⟩ | ⟨_, -, hc⟩
    · exact .inr (.inr ⟨i, _, fun _ => rfl, by simp [hm], hf.trans hr⟩)
    · exact .inr (.inl ⟨_, fun _ => rfl, hf.trans hc⟩)
  · exact .inl ⟨hf, hasNoStep_iff.2 (.inr ⟨hm, hq⟩)⟩
  · have taken : { s with rx := bs } = unitTaken s := by rw [unitTaken_of_binary hm, hq, List.tail_cons]
    have idle : (unitTaken s).pstate = s.pstate := by rw [unitTaken_of_binary hm]
    rw [taken] at hf
    rcases takeByte_cases b (unitTaken s) with
      ⟨op, -, hc⟩ | ⟨op, lo, -, hr⟩ | ⟨op, -, -, hc⟩ | ⟨i, hp, -, hr⟩
    · exact .inr (.inl ⟨_, by simp [hm], hf.trans hc⟩)
    · exact .inr (.inr ⟨_, .idle, by simp [hm], fun _ => rfl, hf.trans hr⟩)
    · exact .inr (.inl ⟨_, by simp [hm], hf.trans hc⟩)
    · have same : unitTaken s = setPState .idle (unitTaken s) := by rw [← hp]; rfl
      exact .inr (.inr ⟨i, .idle, by simp [hm], fun _ => rfl, hf.trans (hr.trans (congrArg _ same))⟩)

/-- Everything a step can do: nothing in a hold, or take one unit, or take one unit and run a command (R13). -/
theorem step_taken {s t : State} (h : step s = .next t) :
    (s.hasNoStep ∧ t = s) ∨
    (∃ p, (s.mode = .interactive → p = s.pstate) ∧ t = setPState p (unitTaken s)) ∨
    ∃ i p, (s.mode = .interactive → p = s.pstate) ∧ (s.mode = .binary → p = .idle) ∧
      exec i (setPState p (unitTaken s)) = .next t := by
  rcases fetch_taken s with ⟨hf, hold⟩ | ⟨p, hp, hf⟩ | ⟨i, p, hp, hp', hf⟩
  · rw [step_of_hold hf] at h
    exact .inl ⟨hold, (Host.Outcome.next.inj h).symm⟩
  · rw [step_of_consumed hf] at h
    exact .inr (.inl ⟨p, hp, (Host.Outcome.next.inj h).symm⟩)
  · rw [step_of_run hf] at h
    exact .inr (.inr ⟨i, p, hp, hp', h⟩)

/-- Every step answers a next state: a command does (`exec_eq`), and what runs no command does. -/
theorem step_completes (s : State) : ∃ t, step s = .next t := by
  rcases fetch_taken s with ⟨hf, -⟩ | ⟨p, -, hf⟩ | ⟨i, p, -, -, hf⟩
  · exact ⟨_, step_of_hold hf⟩
  · exact ⟨_, step_of_consumed hf⟩
  · exact ⟨_, (step_of_run hf).trans (exec_eq i _)⟩

end Sys2Proof.Machine
end

section
/-! PROOFS. The invariant (`State.Inv`): every effect keeps it, so every command and every step does. -/

namespace Sys2Proof.Machine

/-- A bulk read keeps the invariant: the words it stores are canonical, and `respLen` counts them (R23, R24, R46). -/
theorem State.Inv.readBulk {s : State} (h : s.Inv) {n : Nat} (hn : n ≤ 1024) :
    ((CmdEffect.readBulk n).apply s).Inv := by
  have len := toNat_two_mul_of_le hn
  refine { h with
    bufWf := Memory.insertWords_wf _ (by simpa using hn) h.bufWf
    lenEven := by simp [CmdEffect.apply, len]
    lenCap := by simp only [CmdEffect.apply, len, Config.respCap]; omega
    written := fun a ha => ?_
    highBytes := fun c hc odd => ?_
    dataOwned := fun owned => ?_ }
  · simp only [CmdEffect.apply, len] at ha
    exact Option.isSome_of_mem (insertWords_lookup_byteAt (wordAt s) s.respBuf ha)
  · rcases Memory.mem_insertWords hc with old | even | ⟨w, hw⟩
    · exact h.highBytes c old odd
    · omega
    · exact hw ▸ hi8_word_lt w
  · simp [CmdEffect.apply, wordsStored, h.dataOwned owned]

/-- Every effect keeps the invariant where no command is begun. -/
theorem State.Inv.apply {s : State} (h : s.Inv) (idle : s.pstate = .idle) {e : CmdEffect} (he : e.wordCount ≤ 1024) :
    (e.apply s).Inv := by
  cases e with
  | keep => exact h
  | setMode m => exact { h with idle := fun _ => idle }
  | send es => exact { h with }
  | enter => exact { h with
      clockOwned := by simp [CmdEffect.apply], dataOwned := fun _ => rfl, enabled := by simp [CmdEffect.apply] }
  | exit => exact { h with
      clockOwned := by simp [CmdEffect.apply], dataOwned := by simp [CmdEffect.apply],
      enabled := by simp [CmdEffect.apply] }
  | readWord => exact { h with dataOwned := fun _ => rfl }
  | readBulk n => exact h.readBulk he

theorem State.Inv.exec {s t : State} (h : s.Inv) (idle : s.pstate = .idle) {i : Instr} (run : exec i s = .next t) :
    t.Inv :=
  have applied := h.apply idle (wordCount_effectOf i ▸ wordsReadBy_le i)
  exec_next run ▸ { applied with }

/-- Taking an input unit keeps the invariant, where it begins no command in Interactive mode. -/
theorem State.Inv.unitTaken {s : State} (h : s.Inv) {p : PState} (hp : s.mode = .interactive → p = s.pstate) :
    (setPState p (unitTaken s)).Inv := by
  unfold Machine.unitTaken
  split
  · exact { h with idle := fun hm => (hp hm).trans (h.idle hm) }
  · exact { h with idle := fun hm => (hp hm).trans (h.idle hm) }

/-- Settles O3: taking a unit keeps the invariant and leaves no command begun where one runs; every effect keeps it. -/
theorem stepKeepsInvariant : Obligations.StepKeepsInvariant := by
  unfold Obligations.StepKeepsInvariant
  intro s t h step
  rcases step_taken step with ⟨-, rfl⟩ | ⟨p, hp, rfl⟩ | ⟨i, p, hp, hp', run⟩
  · exact h
  · exact h.unitTaken hp
  · refine (h.unitTaken hp).exec ?_ run
    cases hm : s.mode with
    | interactive => exact (hp hm).trans (h.idle hm)
    | binary => exact hp' hm

end Sys2Proof.Machine
end

section
/-! PROOFS. What every step does (R13, R150, R200, R203): it completes, takes one input unit from the port that `mode`
names, and only appends to the observation. -/

namespace Sys2Proof.Machine

/-- Settles O4: a step is a hold, a unit taken, or a command, and every command completes. -/
theorem everyStepCompletes : Obligations.EveryStepCompletes := by
  unfold Obligations.EveryStepCompletes
  exact step_completes

/-- Settles O5: a poll emits nothing, and the events of a command are appended. -/
theorem stepOnlyAppendsEvents : Obligations.StepOnlyAppendsEvents := by
  unfold Obligations.StepOnlyAppendsEvents
  intro s t h
  rcases step_taken h with ⟨-, rfl⟩ | ⟨p, -, rfl⟩ | ⟨i, p, -, -, run⟩
  · exact ⟨[], (List.append_nil _).symm⟩
  · exact ⟨[], by simp⟩
  · exact ⟨eventsOf i _, by rw [exec_trace run, setPState_trace, unitTaken_trace]⟩

/-- Settles O44: outside the holds the poll takes the unit, and a command leaves both ports. -/
theorem oneInputUnitPerStep : Obligations.OneInputUnitPerStep := by
  unfold Obligations.OneInputUnitPerStep
  intro s hs
  obtain ⟨t, h⟩ := step_completes s
  have ports : t.cmd = (unitTaken s).cmd ∧ t.rx = (unitTaken s).rx := by
    rcases step_taken h with ⟨hold, -⟩ | ⟨p, -, rfl⟩ | ⟨i, p, -, -, run⟩
    · exact absurd hold hs
    · exact ⟨rfl, rfl⟩
    · exact ⟨(exec_cmd run).trans rfl, (exec_rx run).trans rfl⟩
  obtain ⟨hcmd, hrx⟩ := ports
  refine ⟨t, h, fun hm => ?_, fun hm => ?_⟩
  · rw [hcmd, hrx, unitTaken_of_interactive hm]
    exact ⟨fun hq => hs (hasNoStep_iff.2 (.inl ⟨hm, hq⟩)), rfl, rfl⟩
  · rw [hcmd, hrx, unitTaken_of_binary hm]
    exact ⟨fun hq => hs (hasNoStep_iff.2 (.inr ⟨hm, hq⟩)), rfl, rfl⟩

end Sys2Proof.Machine
end

section
/-! PROOFS. What does not show (R22, R24, R33): the relation `AgreeButHidden` is kept by polls, commands and runs. -/

namespace Sys2Proof.Machine

theorem AgreeButHidden.setPState {s t : State} (h : AgreeButHidden s t) (p : PState) :
    AgreeButHidden (setPState p s) (setPState p t) := { h with pstate := rfl }

/-- Two polls find the same, and leave states that agree. -/
inductive Fetched.Agree : Fetched → Fetched → Prop
  | hold : Agree .hold .hold
  | consumed {s t : State} (h : AgreeButHidden s t) : Agree (.consumed s) (.consumed t)
  | run (i : Instr) {s t : State} (h : AgreeButHidden s t) : Agree (.run i s) (.run i t)

theorem AgreeButHidden.takeByte {s t : State} (h : AgreeButHidden s t) (b : Byte) :
    (takeByte b s).Agree (takeByte b t) := by
  unfold Machine.takeByte
  rw [h.pstate]
  cases t.pstate with
  | arg1 op => exact .consumed (h.setPState _)
  | arg2 op lo => exact .run _ (h.setPState _)
  | idle =>
    cases decodeFirst b with
    | args op => exact .consumed (h.setPState _)
    | whole i => exact .run i h

theorem AgreeButHidden.takeEvent {s t : State} (h : AgreeButHidden s t) (e : CmdEvent) :
    (takeEvent e s).Agree (takeEvent e t) := by
  unfold Machine.takeEvent
  cases decodeEvent e with
  | ok i => exact .run i h
  | error _ => exact .consumed h

/-- A poll looks at `mode`, the ports and the argument state alone. -/
theorem AgreeButHidden.fetch {s t : State} (h : AgreeButHidden s t) : (fetch s).Agree (fetch t) := by
  rcases fetch_cases s with ⟨hm, hq, hf⟩ | ⟨e, es, hm, hq, hf⟩ | ⟨hm, hq, hf⟩ | ⟨b, bs, hm, hq, hf⟩ <;>
    rw [hf] <;> rw [h.mode] at hm
  · rw [fetch_of_hasNoStep (hasNoStep_iff.2 (.inl ⟨hm, h.cmd ▸ hq⟩))]
    exact .hold
  · rw [fetch_of_event hm (h.cmd ▸ hq)]
    exact { h with cmd := rfl : AgreeButHidden { s with cmd := es } { t with cmd := es } }.takeEvent e
  · rw [fetch_of_hasNoStep (hasNoStep_iff.2 (.inr ⟨hm, h.rx ▸ hq⟩))]
    exact .hold
  · rw [fetch_of_byte hm (h.rx ▸ hq)]
    exact { h with rx := rfl : AgreeButHidden { s with rx := bs } { t with rx := bs } }.takeByte b

/-- A command does the same in states that agree, since its events depend on the samples to come alone. -/
theorem AgreeButHidden.exec {s t : State} (h : AgreeButHidden s t) (i : Instr) :
    ∃ s' t', exec i s = .next s' ∧ exec i t = .next t' ∧ AgreeButHidden s' t' := by
  have hs := exec_eq i s
  have ht := exec_eq i t
  obtain ⟨smp, drawn⟩ := exec_samples hs
  obtain ⟨smp', drawn'⟩ := exec_samples ht
  exact ⟨_, _, hs, ht,
    { mode := by rw [exec_mode hs, exec_mode ht, h.mode]
      pstate := by rw [exec_pstate hs, exec_pstate ht, h.pstate]
      rx := by rw [exec_rx hs, exec_rx ht, h.rx]
      cmd := by rw [exec_cmd hs, exec_cmd ht, h.cmd]
      smp := by rw [smp, smp', afterSamples_smp, afterSamples_smp, h.smp]
      drawn := by rw [drawn, drawn', afterSamples_drawn, afterSamples_drawn, h.smp, h.drawn]
      trace := by rw [exec_trace hs, exec_trace ht, h.trace, eventsOf_congr h.smp h.drawn] }⟩

theorem AgreeButHidden.step {s t : State} (h : AgreeButHidden s t) :
    ∃ s' t', step s = .next s' ∧ step t = .next t' ∧ AgreeButHidden s' t' := by
  have polls := h.fetch
  unfold Machine.step
  generalize Machine.fetch s = found, Machine.fetch t = found' at polls
  cases polls with
  | hold => exact ⟨s, t, rfl, rfl, h⟩
  | consumed h' => exact ⟨_, _, rfl, rfl, h'⟩
  | run i h' => exact h'.exec i

/-- Settles O11: by induction over the run, each step by `AgreeButHidden.step`. -/
theorem hiddenStateNeverShows : Obligations.HiddenStateNeverShows := by
  unfold Obligations.HiddenStateNeverShows
  intro k
  induction k with
  | zero => exact fun s t h => ⟨s, t, rfl, rfl, h⟩
  | succ k ih =>
    intro s t h
    obtain ⟨s', t', hs, ht, h'⟩ := h.step
    rw [run_succ_of_step (M := Sys2Proof.core) hs, run_succ_of_step (M := Sys2Proof.core) ht]
    exact ih s' t' h'

end Sys2Proof.Machine
end

section
/-! SUPPORT. The wire decoder at the two lengths the block sends: a code with its payload, and the entry key
(R75-R79). -/

namespace Sys2Proof

theorem ofWireBits_take_append {n : Nat} (v : BitVec n) (bits : List Bit) :
    ofWireBits n ((wireBits v ++ bits).take n) = v := by
  rw [List.take_left' (length_wireBits v), ofWireBits_wireBits]

/-- A code and a payload that do not fill the 33 bits of the key decode as a command (R76-R78). -/
theorem decodeWire_code_append (c : BitVec 6) {payload : List Bit} (h : payload.length ≠ 27) :
    decodeWire (wireBits c ++ payload) = decodeCommand c payload := by
  have len : (wireBits c ++ payload).length = 6 + payload.length := by rw [List.length_append, length_wireBits]
  rw [decodeWire, if_neg (by simp only [len, Config.keyBits]; omega),
    if_neg (by simp only [len, Config.cmdBits]; omega), ofWireBits_take_append, List.drop_left' (length_wireBits c)]

/-- A code alone decodes as a command without a payload (R76). -/
theorem decodeWire_code (c : BitVec 6) : decodeWire (wireBits c) = decodeCommand c [] := by
  simpa using decodeWire_code_append c (payload := []) (by decide)

theorem decodeWire_enterKey : decodeWire (wireBits Config.enterKey) = .ok .icspEnterProgramMode := by
  simp [decodeWire]

/-- The codes without a payload decode to their rows (R75). -/
theorem decodeCommand_of_mem_plainCodes : ∀ row ∈ plainCodes, decodeCommand row.1 [] = .ok row.2 := by decide

theorem decodeCommand_loadConfig : decodeCommand 0x00 (wireBits (0 : Word16)) = .ok .icspLoadConfig := by decide

theorem getLsbD_low15 : ∀ i < 16, (0x7FFF : Word16).getLsbD i = decide (i < 15) := by decide

/-- The start bit pushes bit 15 out of the wire word of a load (R77, R126). -/
theorem shiftLeft_ushiftRight_one (v : Word16) : (v <<< 1) >>> 1 = v &&& 0x7FFF := by
  apply BitVec.eq_of_getLsbD_eq
  intro i hi
  rw [BitVec.getLsbD_and, getLsbD_low15 i hi, BitVec.getLsbD_ushiftRight, BitVec.getLsbD_shiftLeft,
    Nat.add_sub_cancel_left]
  rcases Nat.lt_or_ge i 15 with h | h
  · simp [h, show 1 + i < 16 by omega]
  · simp [show ¬ i < 15 by omega, show ¬ 1 + i < 16 by omega]

/-- A value whose bit 15 is 0 is its 15 low bits (log 15). -/
theorem and_low15_of_bit15 {v : Word16} (h : v.getLsbD 15 = false) : v &&& 0x7FFF = v := by
  apply BitVec.eq_of_getLsbD_eq
  intro i hi
  rw [BitVec.getLsbD_and, getLsbD_low15 i hi]
  rcases Nat.lt_or_ge i 15 with h' | h'
  · simp [h']
  · obtain rfl : i = 15 := by omega
    rw [h, Bool.false_and]

/-- A load decodes to its value but for bit 15, which is not sent (R77, R126). -/
theorem decodeCommand_loadData (v : Word16) :
    decodeCommand 0x02 (wireBits (v <<< 1)) = .ok (.icspLoadData (v &&& 0x7FFF)) := by
  have start : (wireBits (v <<< 1)).head? = some false := by simp [wireBits, List.range_succ_eq_map]
  rw [decodeCommand, if_neg (by decide), if_pos rfl, if_pos ⟨length_wireBits _, start⟩, ofWireBits_wireBits,
    shiftLeft_ushiftRight_one]

end Sys2Proof
end

section
/-! PROOFS. Encode and decode (R65-R81): every well-formed command is given back, and a Binary command is the encoding
of what it decodes to. -/

namespace Sys2Proof

theorem decodeEvent_encodeEvent {c : Byte} {arg : Option Token} {i : Instr} (h : (c, i) ∈ eventRows arg) :
    decode (encodeEvent c arg) = .ok i := decodeEvent_of_mem_eventRows arg (c, i) h

/-- A byte that decodes to a whole command is that command's code (R67). -/
theorem decode_encodeB1 {b : Byte} {i : Instr} (h : decodeFirst b = .whole i) : decode (encodeB1 b) = .ok i := by
  simp [encodeB1, decode, decodeBytes, h]

theorem decode_encodeB3 (op : ArgOp) (arg : Word16) : decode (encodeB3 op.opcode arg) = .ok (op.instr arg) := by
  simp [encodeB3, decode, decodeBytes, decodeFirst_opcode, le16_lo8_hi8]

theorem decode_encodeW6 {c : BitVec 6} {i : Instr} (h : (c, i) ∈ plainCodes) : decode (encodeW6 c) = .ok i :=
  (decodeWire_code c).trans (decodeCommand_of_mem_plainCodes _ h)

/-- Settles O45: one lemma for each format. -/
theorem decodeOfEncode : Obligations.DecodeOfEncode := by
  unfold Obligations.DecodeOfEncode
  intro i wf
  cases i with
  | binP | binQ | binZero | binI | binC | binE | binA | binW | binB | binF | binV | binX | binCr | binLf | binSpace =>
    exact decode_encodeB1 (by decide)
  | binR count => exact decode_encodeB3 .r count
  | binL value => exact decode_encodeB3 .l value
  | binUnrecognized b =>
    exact decode_encodeB1 ((decodeFirst_eq_unrecognized_iff b).2 (by simpa [Instr.wf] using wf))
  | icspLoadConfig => exact (decodeWire_code_append _ (by simp)).trans decodeCommand_loadConfig
  | icspLoadData v =>
    have low : v &&& 0x7FFF = v := and_low15_of_bit15 (by simpa [Instr.wf] using wf)
    exact (decodeWire_code_append _ (by simp)).trans ((decodeCommand_loadData v).trans (by rw [low]))
  | icspReadWord | icspIncAddress | icspBeginIntProg | icspEraseAll | icspEndExtProg | icspEraseRow | icspResetAddress
  | icspBeginExtProg => exact decode_encodeW6 (by decide)
  | icspEnterProgramMode => exact decodeWire_enterKey
  | icspExitProgramMode => rfl
  | intP | intQ | intZero | intI | intC | intR _ | intL _ | intE | intA | intW | intB | intF | intDot =>
    exact decodeEvent_encodeEvent (by simp [eventRows])

/-- A byte that is a whole command is that command's code, and neither of the opcodes with arguments (R67, R74). -/
theorem encode_of_decodeFirst_whole {b : Byte} {i : Instr} (h : decodeFirst b = .whole i) :
    i.wf = true ∧ encode i = .bytes [b] ∧ b ≠ 0x72 ∧ b ≠ 0x6C := by
  have rows : ∀ row ∈ binaryRows, ∀ i, row.2 = .whole i →
      i.wf = true ∧ encode i = .bytes [row.1] ∧ row.1 ≠ 0x72 ∧ row.1 ≠ 0x6C := by
    simp [binaryRows, Instr.wf, encode, encodeB1]
  rcases decodeFirst_cases b with row | unrecognized
  · exact rows _ row i h
  · have hb := (decodeFirst_eq_unrecognized_iff b).1 unrecognized
    obtain rfl : .binUnrecognized b = i := FirstByte.whole.inj (unrecognized.symm.trans h)
    exact ⟨by simpa [Instr.wf] using hb, rfl, fun e => hb (e ▸ by decide), fun e => hb (e ▸ by decide)⟩

/-- A byte that asks for arguments is the opcode byte of `r` or of `l` (R68, R74). -/
theorem eq_opcode_of_decodeFirst_args {b : Byte} {op : ArgOp} (h : decodeFirst b = .args op) : b = op.opcode := by
  have rows : ∀ row ∈ binaryRows, ∀ op, row.2 = .args op → row.1 = op.opcode := by
    simp [binaryRows, ArgOp.opcode]
  rcases decodeFirst_cases b with row | unrecognized
  · exact rows _ row op h
  · cases unrecognized.symm.trans h

/-- What a byte sequence that decodes looks like: a whole command's byte, or an opcode and two argument bytes (R70). -/
theorem decodeBytes_ok {bs rest : List Byte} {i : Instr} (h : decodeBytes bs = .ok (i, rest)) :
    (∃ b, bs = b :: rest ∧ decodeFirst b = .whole i) ∨
    ∃ (op : ArgOp) (lo hi : Byte), bs = op.opcode :: lo :: hi :: rest ∧ i = op.instr (le16 lo hi) := by
  cases bs with
  | nil => cases h
  | cons b tail =>
    rw [decodeBytes] at h
    cases hb : decodeFirst b with
    | whole j =>
      rw [hb] at h
      cases h
      exact .inl ⟨b, rfl, hb⟩
    | args op =>
      rw [hb] at h
      rw [eq_opcode_of_decodeFirst_args hb]
      match tail with
      | lo :: hi :: rest' =>
        cases h
        exact .inr ⟨op, lo, hi, rfl, rfl⟩
      | [] | [_] => cases h

/-- Settles O46: a whole command's byte is its code by `encode_of_decodeFirst_whole`, and the two bytes of an argument
are those of the value they make by `encode_argOp_le16`. -/
theorem binaryDecodingIsExact : Obligations.BinaryDecodingIsExact := by
  unfold Obligations.BinaryDecodingIsExact
  intro bs rest i h
  rcases decodeBytes_ok h with ⟨b, rfl, hb⟩ | ⟨op, lo, hi, rfl, rfl⟩
  · obtain ⟨wf, code, not_r, not_l⟩ := encode_of_decodeFirst_whole hb
    refine ⟨wf, [b], code, rfl, (if_neg ?_).symm⟩
    simpa only [List.cons_append, List.head?_cons, Option.some.injEq, not_or] using ⟨not_r, not_l⟩
  · refine ⟨by cases op <;> rfl, _, encode_argOp_le16 op lo hi, rfl, ?_⟩
    cases op <;> rfl

/-- Settles O48: each word is evaluated. -/
theorem sampleWordsDecode : Obligations.SampleWordsDecode := by
  unfold Obligations.SampleWordsDecode
  decide

/-- The ten codes of R75. -/
def targetCodes : List (BitVec 6) := [0x00, 0x02, 0x04, 0x06, 0x08, 0x09, 0x0A, 0x11, 0x16, 0x18]

/-- The two codes with a payload and the rows without one are all that decodes (R75). -/
theorem decodeCommand_unused {code : BitVec 6} (h : code ∉ targetCodes) (payload : List Bit) :
    decodeCommand code payload = .error (.unusedCode code) := by
  have no_row : plainCodes.lookup code = none := by
    have rows : ∀ row ∈ plainCodes, row.1 ∈ targetCodes := by decide
    rw [List.lookup_eq_none_iff]
    exact fun row hrow => bne_iff_ne.2 fun e => h (e ▸ rows row hrow)
  rw [decodeCommand, if_neg (by rintro rfl; exact h (by decide)), if_neg (by rintro rfl; exact h (by decide)), no_row]

/-- Each of the ten codes decodes with the payload R75 gives it. -/
theorem decodeCommand_used : ∀ code ∈ targetCodes, ∃ payload i, decodeCommand code payload = .ok i := by
  have plain {code : BitVec 6} {i : Instr} (h : (code, i) ∈ plainCodes) :
      ∃ payload i, decodeCommand code payload = .ok i := ⟨[], i, decodeCommand_of_mem_plainCodes _ h⟩
  simp only [targetCodes, List.forall_mem_cons]
  exact ⟨⟨_, _, decodeCommand_loadConfig⟩, ⟨_, _, decodeCommand_loadData 0⟩, plain (i := .icspReadWord) (by decide),
    plain (i := .icspIncAddress) (by decide), plain (i := .icspBeginIntProg) (by decide),
    plain (i := .icspEraseAll) (by decide), plain (i := .icspEndExtProg) (by decide),
    plain (i := .icspEraseRow) (by decide), plain (i := .icspResetAddress) (by decide),
    plain (i := .icspBeginExtProg) (by decide), List.forall_mem_nil _⟩

/-- What is sent on the wire is the entry key, or one of the ten codes and then its payload (R76-R79). -/
theorem encode_wire {i : Instr} {bits : List Bit} (h : encode i = .wire bits) :
    bits = wireBits Config.enterKey ∨ ∃ code ∈ targetCodes, ∃ payload, bits = wireBits code ++ payload := by
  cases i with
  | icspEnterProgramMode => exact .inl (Code.wire.inj h).symm
  | icspLoadConfig | icspLoadData v =>
    refine .inr ⟨_, ?_, _, (Code.wire.inj h).symm⟩
    decide
  | icspReadWord | icspIncAddress | icspBeginIntProg | icspEraseAll | icspEndExtProg | icspEraseRow | icspResetAddress
  | icspBeginExtProg =>
    refine .inr ⟨_, ?_, [], (Code.wire.inj h).symm.trans (List.append_nil _).symm⟩
    decide
  | _ => cases h

/-- Settles O49: the ten codes decode by `decodeCommand_used`, any other is refused by `decodeCommand_unused`, and what
is sent begins with a code by `encode_wire`. -/
theorem unusedCodesAreRefused : Obligations.UnusedCodesAreRefused := by
  unfold Obligations.UnusedCodesAreRefused
  refine ⟨decodeCommand_of_mem_plainCodes, by decide, decodeCommand_loadData, fun code => ⟨?_, decodeCommand_used code⟩,
    fun code => decodeCommand_unused, fun i bits h len => ?_⟩
  · rintro ⟨payload, i, h⟩
    by_contra unused
    cases (decodeCommand_unused unused payload).symm.trans h
  · rcases encode_wire h with rfl | ⟨code, used, payload, rfl⟩
    · simp at len
    · rwa [ofWireBits_take_append]

end Sys2Proof
end

section
/-! SUPPORT. The events of the engine and of the sequencer's operations: their number, their clock pulses, the bits
driven during these, and the time they take (R104, R109, R136, R234). -/

namespace Sys2Proof.Machine

/-! ### Numbers of events -/

/-- A code and its settle wait are 33 events (R136). -/
theorem length_cmdTrace_wait (c : BitVec 6) (t : Duration) : (cmdTrace c ++ [Event.wait t]).length = 33 := by
  rw [List.length_append, length_cmdTrace, List.length_singleton]

theorem length_readTrace (samples : List Bit) : (readTrace samples).length = 5 * samples.length + 3 := by
  simp [readTrace, readCycle, Nat.mul_comm]

/-- A word read is 117 events (R136). -/
theorem length_readWordTrace {samples : List Bit} (h : samples.length = 16) : (readWordTrace samples).length = 117 := by
  rw [readWordTrace, List.length_append, List.length_cons, List.length_append, length_cmdTrace, length_readTrace, h]
  rfl

theorem length_enterTrace : enterTrace.length = 174 := by
  rw [enterTrace, List.length_append, List.length_append, length_sendTrace, length_wireBits]
  rfl

theorem length_samplesAt (s : State) (i : Nat) : (samplesAt s i).length = 16 := length_nextSamples 16 _

/-- A bulk read is 149 events for each word: the read and the increment (R136). -/
theorem length_bulkTrace (n : Nat) (s : State) : (bulkTrace n s).length = 149 * n := by
  have word (i : Nat) : (readWordTrace (samplesAt s i) ++ cmdTrace 0x06).length = 149 := by
    rw [List.length_append, length_readWordTrace (length_samplesAt s i), length_cmdTrace]
  simp only [bulkTrace, List.length_flatMap, word, List.map_const', List.length_range, List.sum_replicate_nat]
  exact Nat.mul_comm n 149

/-! ### Clock pulses -/

theorem clockPulses_append (es es' : List Event) : clockPulses (es ++ es') = clockPulses es + clockPulses es' :=
  List.countP_append

theorem clockPulses_flatMap {cycle : Bit → List Event} (h : ∀ b, clockPulses (cycle b) = 1) (bits : List Bit) :
    clockPulses (bits.flatMap cycle) = bits.length := by
  induction bits with
  | nil => rfl
  | cons b bits ih => rw [List.flatMap_cons, clockPulses_append, h, ih, List.length_cons, Nat.add_comm]

/-- One pulse for each bit sent (R104). -/
theorem clockPulses_sendTrace (bits : List Bit) : clockPulses (sendTrace bits) = bits.length := by
  have cycles := clockPulses_flatMap (cycle := sendCycle) (by decide) bits
  rw [sendTrace, ← List.singleton_append, clockPulses_append, clockPulses_append, cycles]
  exact Nat.zero_add _

/-- One pulse for each sample (R109). -/
theorem clockPulses_readTrace (samples : List Bit) : clockPulses (readTrace samples) = samples.length := by
  have cycles := clockPulses_flatMap (cycle := readCycle) (by decide) samples
  rw [readTrace, ← List.singleton_append, clockPulses_append, clockPulses_append, cycles]
  exact Nat.zero_add _

/-! ### Bits driven -/

/-- The pulses of a read drive nothing (R80). -/
theorem pulsedBits_flatMap_readCycle_append (samples : List Bit) (es : List Event) :
    pulsedBits (samples.flatMap readCycle ++ es) = pulsedBits es := by
  induction samples with
  | nil => rfl
  | cons b samples ih => rw [List.flatMap_cons, List.append_assoc, ← ih]; simp [readCycle, pulsedBits]

/-- A word read drives its code alone. -/
theorem pulsedBits_readWordTrace (samples : List Bit) :
    pulsedBits (readWordTrace samples) = wireBits (0x04 : BitVec 6) := by
  simp [readWordTrace, readTrace, cmdTrace, pulsedBits_sendTrace_append, pulsedBits,
    pulsedBits_flatMap_readCycle_append]

/-- Entry drives the key alone: it raises CLOCK in the transfer of the key only. -/
theorem pulsedBits_enterTrace : pulsedBits enterTrace = wireBits Config.enterKey := by
  simp [enterTrace, pulsedBits, pulsedBits_sendTrace_append]

/-! ### Time -/

theorem elapsed_append (c : Timing) (es es' : List Event) : elapsed c (es ++ es') = elapsed c es + elapsed c es' := by
  induction es with
  | nil => simp [elapsed]
  | cons e es ih => cases e <;> simp [elapsed, ih, Nat.add_assoc]

theorem elapsed_flatMap {α : Type} (c : Timing) {f : α → List Event} {t : Nat} {xs : List α}
    (h : ∀ x ∈ xs, elapsed c (f x) = t) : elapsed c (xs.flatMap f) = xs.length * t := by
  induction xs with
  | nil => simp [elapsed]
  | cons x xs ih =>
    obtain ⟨hx, hxs⟩ := List.forall_mem_cons.1 h
    rw [List.flatMap_cons, elapsed_append, hx, ih hxs, List.length_cons, Nat.succ_mul, Nat.add_comm]

/-- A transfer waits at its start and twice in each cycle (R103). -/
theorem elapsed_sendTrace (c : Timing) (bits : List Bit) :
    elapsed c (sendTrace bits) = c.tStart + bits.length * (2 * c.tBit) := by
  have cycles := elapsed_flatMap c (f := sendCycle) (t := 2 * c.tBit) (xs := bits) fun b _ => by
    simp [sendCycle, elapsed, Timing.value, Nat.two_mul]
  simp [sendTrace, elapsed, elapsed_append, cycles, Timing.value]

theorem elapsed_cmdTrace (c : Timing) (code : BitVec 6) : elapsed c (cmdTrace code) = c.tStart + 12 * c.tBit := by
  rw [cmdTrace, elapsed_sendTrace, length_wireBits]
  omega

/-- A read waits twice in each cycle (R106). -/
theorem elapsed_readTrace (c : Timing) (samples : List Bit) :
    elapsed c (readTrace samples) = samples.length * (2 * c.tBit) := by
  have cycles := elapsed_flatMap c (f := readCycle) (t := 2 * c.tBit) (xs := samples) fun b _ => by
    simp [readCycle, elapsed, Timing.value, Nat.two_mul]
  simp [readTrace, elapsed, elapsed_append, cycles]

/-- A word read waits for its code, 16 cycles and two gaps of three delay units (R127). -/
theorem elapsed_readWordTrace (c : Timing) {samples : List Bit} (h : samples.length = 16) :
    elapsed c (readWordTrace samples) = c.tStart + 44 * c.tBit + 6 * c.delayUnit := by
  simp only [readWordTrace, elapsed, elapsed_append, elapsed_cmdTrace, elapsed_readTrace, h, Timing.value]
  omega

/-- Each word of a bulk read waits for the read and for the increment (R133, R234). -/
theorem elapsed_bulkTrace (c : Timing) (n : Nat) (s : State) :
    elapsed c (bulkTrace n s) = n * (2 * c.tStart + 56 * c.tBit + 6 * c.delayUnit) := by
  have words := elapsed_flatMap c (f := fun i => readWordTrace (samplesAt s i) ++ cmdTrace 0x06)
    (t := 2 * c.tStart + 56 * c.tBit + 6 * c.delayUnit) (xs := List.range n) fun i _ => by
      rw [elapsed_append, elapsed_readWordTrace c (length_samplesAt s i), elapsed_cmdTrace]
      omega
  rw [bulkTrace, words, List.length_range]

end Sys2Proof.Machine
end

section
/-! PROOFS. The engine (R103-R111): what `send` and `readBits` emit, leave and return. -/

namespace Sys2Proof.Machine

/-- Settles O51: `send_ok` inside the widths, `send_fault` outside. -/
theorem sendShiftsOutAndEndsLow : Obligations.SendShiftsOutAndEndsLow := by
  unfold Obligations.SendShiftsOutAndEndsLow
  refine fun value n s => ⟨fun h => send_fault h value s, fun h h' => ?_⟩
  rw [send_ok h h']
  simp [sendTrace, List.flatMap_map, sendCycle, List.append_assoc]

/-- Settles O52: the counts are those of `sendTrace` for n bits. -/
theorem sendEventCount : Obligations.SendEventCount := by
  unfold Obligations.SendEventCount
  intro value n s h h'
  have bits : ((List.range n).map value.getLsbD).length = n := by simp
  refine ⟨_, _, send_ok h h' value s, rfl, ?_, ?_, ?_⟩
  · rw [length_sendTrace, bits]
  · rw [clockPulses_sendTrace, bits]
  · rw [sendTrace, ← List.cons_append, List.getLast?_concat]

/-- The word's bits are samples 1 to 14 (R107). -/
theorem getLsbD_wordOfSamples (bs : List Bit) {j : Nat} (hj : j < 14) :
    (wordOfSamples bs).getLsbD j = bs.getD (j + 1) false := by
  rw [wordOfSamples, getLsbD_ofWireBits]
  simp [List.getD_eq_getElem?_getD, hj]

/-- Settles O54: `readBits_ok` for 16 samples, `readBits_fault` for another count. -/
theorem readBitsDropsTheFraming : Obligations.ReadBitsDropsTheFraming := by
  unfold Obligations.ReadBitsDropsTheFraming
  refine ⟨fun s => ?_, fun n s h => readBits_fault h s⟩
  have samples := length_nextSamples 16 s
  refine ⟨_, _, _, readBits_ok s, fun j hj => getLsbD_wordOfSamples _ hj, rfl, ?_, ?_, rfl⟩
  · rw [length_readTrace, samples]
  · rw [clockPulses_readTrace, samples]

/-- Where the target's next 16 levels are known, they are the samples to come (R12). -/
theorem nextSamples_of_known {s : State} {known rest : List Bit} (h : s.smp = known ++ rest) :
    nextSamples known.length s = known := by
  simp [nextSamples, h]

/-- The frame of a load read back is the 14 low bits of its value: the start bit and bit 14 are the framing (R111). -/
theorem wordOfSamples_wireBits_shiftLeft (v : Word16) : wordOfSamples (wireBits (v <<< 1)) = v.setWidth 14 := by
  apply BitVec.eq_of_getLsbD_eq
  intro j hj
  rw [getLsbD_wordOfSamples _ hj, getD_wireBits, BitVec.getLsbD_shiftLeft, BitVec.getLsbD_setWidth]
  simp [hj, show j + 1 < 16 by omega]

/-- Settles O55: the samples are the frame, and its word is `wordOfSamples_wireBits_shiftLeft`. -/
theorem roundTripRecoversTheValue : Obligations.RoundTripRecoversTheValue := by
  unfold Obligations.RoundTripRecoversTheValue
  intro v s rest h
  have frame : nextSamples 16 s = wireBits (v <<< 1) := by
    simpa only [length_wireBits] using nextSamples_of_known h
  have reads := readBits_ok s
  rw [frame, wordOfSamples_wireBits_shiftLeft] at reads
  exact ⟨_, reads, by rw [afterSamples_smp, h, List.drop_left' (length_wireBits _)]⟩

end Sys2Proof.Machine
end

section
/-! PROOFS. The target commands on the wire (R75-R79, R121-R136, R234): what they leave, their bits, their number of
events and their time. -/

namespace Sys2Proof.Machine

/-- A command whose encoding is a transfer drives it bit for bit, and has no reply (R76-R79). -/
theorem pulsedBits_events_of_encode_wire {i : Instr} {bits : List Bit} (h : encode i = .wire bits) (s : State) :
    pulsedBits ((effectOf i).events s) = bits ∧ replyOf i s = [] := by
  cases i with
  | icspEnterProgramMode =>
    cases h
    exact ⟨pulsedBits_enterTrace, rfl⟩
  | icspLoadConfig | icspLoadData v =>
    cases h
    exact ⟨pulsedBits_loadTrace _ _, rfl⟩
  | icspReadWord =>
    cases h
    exact ⟨pulsedBits_readWordTrace _, rfl⟩
  | icspIncAddress | icspResetAddress =>
    cases h
    exact ⟨pulsedBits_cmdTrace _, rfl⟩
  | icspBeginIntProg | icspEraseAll | icspEndExtProg | icspEraseRow | icspBeginExtProg =>
    cases h
    exact ⟨pulsedBits_cmdTrace_wait _ _, rfl⟩
  | _ => cases h

/-- Settles O50: by `pulsedBits_events_of_encode_wire`. -/
theorem wireCarriesTheEncoding : Obligations.WireCarriesTheEncoding := by
  unfold Obligations.WireCarriesTheEncoding
  intro i bits s h
  obtain ⟨driven, silent⟩ := pulsedBits_events_of_encode_wire h s
  exact ⟨_, _, exec_of_replyOf_nil silent, CmdEffect.apply_trace _ s, driven⟩

/-- The start bit 0 and then bits 0 to 14 (R126). -/
theorem wireBits_shiftLeft_one (v : Word16) : wireBits (v <<< 1) = false :: (List.range 15).map v.getLsbD := by
  rw [wireBits, List.range_succ_eq_map, List.map_cons, List.map_map]
  refine congrArg₂ List.cons (by simp) (List.map_congr_left fun i hi => ?_)
  have inside : i + 1 < 16 := Nat.succ_lt_succ (List.mem_range.1 hi)
  rw [Function.comp_apply, Nat.succ_eq_add_one, BitVec.getLsbD_shiftLeft, Nat.add_sub_cancel]
  simp [inside]

/-- Settles O18: the shift to the left puts the start bit in front and drops bit 15. -/
theorem loadDataSendsShiftedValue : Obligations.LoadDataSendsShiftedValue := by
  unfold Obligations.LoadDataSendsShiftedValue
  refine fun v s => ⟨exec_of_replyOf_nil rfl, ?_, exec_congr ?_ rfl⟩
  · rw [pulsedBits_loadTrace, List.drop_left' (length_wireBits _), wireBits_shiftLeft_one]
  · have dropped : (v ^^^ 0x8000) <<< 1 = v <<< 1 := by
      rw [BitVec.shiftLeft_xor_distrib]
      exact BitVec.xor_zero
    simp only [effectOf, dropped]

/-- Settles O19: both commands are their effect with no reply. -/
theorem enterAndExitOwnThePins : Obligations.EnterAndExitOwnThePins := by
  unfold Obligations.EnterAndExitOwnThePins
  exact fun s => ⟨exec_of_replyOf_nil rfl, exec_of_replyOf_nil rfl, length_enterTrace, rfl⟩

/-- Settles O20: the operation is `readWord_ok`, the word's bits are `getLsbD_wordOfSamples`. -/
theorem readWordReturnsTheFrame : Obligations.ReadWordReturnsTheFrame := by
  unfold Obligations.ReadWordReturnsTheFrame
  exact fun s => ⟨_, _, readWord_ok s, exec_of_replyOf_nil rfl, rfl, fun j hj => getLsbD_wordOfSamples _ hj,
    length_readWordTrace (length_nextSamples 16 s)⟩

/-- Settles O56: each row is the length of its closed form. -/
theorem operationEventCounts : Obligations.OperationEventCounts := by
  unfold Obligations.OperationEventCounts
  have counted {i : Instr} {n : Nat} (h : ∀ s, replyOf i s = [] ∧ ((effectOf i).events s).length = n) (s : State) :
      ∃ t, exec i s = .next t ∧ t.trace.length = s.trace.length + n := by
    obtain ⟨silent, len⟩ := h s
    exact ⟨_, exec_of_replyOf_nil silent, by rw [CmdEffect.apply_trace, List.length_append, len]⟩
  refine ⟨?_, fun v => counted fun s => ⟨rfl, length_loadTrace _ _⟩,
    fun count s => ⟨_, readProgramMemory_ok count s, ?_⟩⟩
  · simp only [List.forall_mem_cons]
    exact ⟨counted fun _ => ⟨rfl, length_enterTrace⟩, counted fun _ => ⟨rfl, rfl⟩,
      counted fun _ => ⟨rfl, length_cmdTrace _⟩, counted fun _ => ⟨rfl, length_cmdTrace _⟩,
      counted fun _ => ⟨rfl, length_loadTrace _ _⟩,
      counted fun s => ⟨rfl, length_readWordTrace (length_nextSamples 16 s)⟩,
      counted fun _ => ⟨rfl, length_cmdTrace_wait _ _⟩, counted fun _ => ⟨rfl, length_cmdTrace_wait _ _⟩,
      counted fun _ => ⟨rfl, length_cmdTrace_wait _ _⟩, counted fun _ => ⟨rfl, length_cmdTrace_wait _ _⟩,
      counted fun _ => ⟨rfl, length_cmdTrace_wait _ _⟩, List.forall_mem_nil _⟩
  · exact (List.length_append).trans (congrArg _ (length_bulkTrace _ s))

/-- Settles O57: the waits of the closed forms, summed. -/
theorem waitsBoundTimeBelow : Obligations.WaitsBoundTimeBelow := by
  unfold Obligations.WaitsBoundTimeBelow
  refine ⟨fun c s => ⟨_, _, exec_of_replyOf_nil rfl, CmdEffect.apply_trace _ s, ?_⟩,
    fun c count s => ⟨_, _, readProgramMemory_ok count s, rfl, elapsed_bulkTrace c _ s⟩⟩
  simp [effectOf, CmdEffect.events, elapsed_append, elapsed_cmdTrace, elapsed, Timing.value]

end Sys2Proof.Machine
end

section
/-! SUPPORT. Which registers an effect writes, and which commands have such an effect (R20, R23, R26). -/

namespace Sys2Proof.Machine

theorem effectOf_eq_enter_iff (i : Instr) : effectOf i = .enter ↔ i ∈ enterCommands := by
  cases i <;> simp [effectOf, enterCommands]

theorem effectOf_eq_exit_iff (i : Instr) : effectOf i = .exit ↔ i ∈ exitCommands := by
  cases i <;> simp [effectOf, exitCommands]

/-- Only entry and exit write `programMode`, the direction of CLOCK and PGM_EN (R121, R122). -/
theorem CmdEffect.apply_ownership {e : CmdEffect} (enter : e ≠ .enter) (exit : e ≠ .exit) (s : State) :
    (e.apply s).programMode = s.programMode ∧ (e.apply s).dirCLK = s.dirCLK ∧ (e.apply s).lvlPGM_EN = s.lvlPGM_EN := by
  cases e with
  | enter => exact absurd rfl enter
  | exit => exact absurd rfl exit
  | keep | setMode m | send es | readWord | readBulk n => exact ⟨rfl, rfl, rfl⟩

/-- The direction of DATA is written by these and by reads (R106). -/
theorem CmdEffect.apply_dirDATA {e : CmdEffect} (enter : e ≠ .enter) (exit : e ≠ .exit) (reads : e.wordCount = 0)
    (s : State) : (e.apply s).dirDATA = s.dirDATA := by
  cases e with
  | enter => exact absurd rfl enter
  | exit => exact absurd rfl exit
  | readWord => exact absurd reads one_ne_zero
  | readBulk n =>
    obtain rfl : n = 0 := reads
    rfl
  | keep | setMode m | send es => rfl

/-- Does the effect drive a level of CLOCK or DATA? -/
def CmdEffect.drivesLevels : CmdEffect → Bool
  | .keep | .setMode _ | .exit => false
  | .send _ | .enter | .readWord | .readBulk _ => true

theorem CmdEffect.apply_levels {e : CmdEffect} (h : e.drivesLevels = false) (s : State) :
    (e.apply s).lvlCLK = s.lvlCLK ∧ (e.apply s).lvlDATA = s.lvlDATA := by
  cases e with
  | keep | setMode m | exit => exact ⟨rfl, rfl⟩
  | send es | enter | readWord | readBulk n => cases h

/-- Neither a silent command nor exit drives a level of CLOCK or DATA (R122, R167-R170, R197). -/
theorem drivesLevels_effectOf {i : Instr} (h : isSilent i ∨ i ∈ exitCommands) : (effectOf i).drivesLevels = false := by
  rcases h with silent | exit
  · revert silent
    cases i <;> simp [isSilent, effectOf, CmdEffect.drivesLevels]
  · rw [(effectOf_eq_exit_iff i).2 exit]
    rfl

/-- Of the commands only `x` and `.` write `mode` (R21). -/
theorem modeAfter_effectOf {i : Instr} (x : i ≠ .binX) (dot : i ≠ .intDot) (m : Mode) :
    (effectOf i).modeAfter m = m := by
  cases i with
  | binX => exact absurd rfl x
  | intDot => exact absurd rfl dot
  | _ => rfl

/-- A bulk read writes `respLen`, and nothing else does (R23). -/
theorem exec_respLen {i : Instr} {s t : State} (h : exec i s = .next t) :
    t.respLen = if writesRespLen i then BitVec.ofNat 16 (2 * wordsStoredBy i) else s.respLen := by
  rw [exec_next h]
  cases i <;> rfl

/-- The buffer after a command is the buffer before it with the words stored that a bulk read reads (R24, R133). -/
theorem exec_respBuf {i : Instr} {s t : State} (h : exec i s = .next t) :
    t.respBuf = s.respBuf.insertWords 0 (wordsRead (wordsStoredBy i) s) := by
  rw [exec_next h]
  cases i <;> rfl

theorem wordsStoredBy_le (i : Instr) : wordsStoredBy i ≤ 1024 := by
  cases i with
  | binR count | intR arg => exact clampCount_le _
  | _ => exact Nat.zero_le _

theorem memRead_congr {s t : State} {a : BitVec 11} (h : t.respBuf.lookup a.toNat = s.respBuf.lookup a.toNat) :
    memRead a t = memRead a s := by
  rw [memRead, memRead, h]

end Sys2Proof.Machine
end

section
/-! PROOFS. Reset and the frames (R20-R26, R220): what the block starts with, and what a command leaves alone. -/

namespace Sys2Proof.Machine

/-- Settles O1: read off the state after reset; its buffer is empty. -/
theorem resetLeavesTheBlockIdle : Obligations.ResetLeavesTheBlockIdle := by
  unfold Obligations.ResetLeavesTheBlockIdle
  exact ⟨rfl, rfl, rfl, rfl, fun a => memRead_fault rfl, rfl, rfl, rfl, rfl⟩

/-- Settles O2: the empty buffer is canonical, nothing is below `respLen`, and CLOCK and PGM_EN are free. -/
theorem resetMeetsInvariant : Obligations.ResetMeetsInvariant := by
  unfold Obligations.ResetMeetsInvariant
  exact {
    bufWf := reset_wf
    lenEven := rfl
    lenCap := Nat.zero_le _
    written := fun a ha => absurd ha (Nat.not_lt_zero a)
    highBytes := List.forall_mem_nil _
    idle := fun _ => rfl
    clockOwned := by decide
    dataOwned := by decide
    enabled := by decide }

/-- Settles O8: `exec_respLen`, where 16 bits hold twice a clamped count. -/
theorem respLenOnlyByReads : Obligations.RespLenOnlyByReads := by
  unfold Obligations.RespLenOnlyByReads
  refine ⟨rfl, fun i s t h => ?_⟩
  rw [exec_respLen h]
  split
  · exact toNat_two_mul_of_le (wordsStoredBy_le i)
  · rfl

/-- Settles O12: one lemma on the effects for each class of commands. -/
theorem registerFrame : Obligations.RegisterFrame := by
  unfold Obligations.RegisterFrame
  intro i s t h
  have enter (hi : i ∉ enterCommands) : effectOf i ≠ .enter := fun e => hi ((effectOf_eq_enter_iff i).1 e)
  have exit (hi : i ∉ exitCommands) : effectOf i ≠ .exit := fun e => hi ((effectOf_eq_exit_iff i).1 e)
  refine ⟨exec_pstate h, ?_, exec_rx h, exec_cmd h, fun x dot => ?_, fun he hx => ?_, fun he hx reads => ?_,
    fun quiet => ?_, fun writes => ?_, fun reads => ?_⟩
  · rw [exec_next h, emit_lvlLED, CmdEffect.apply_lvlLED]
  · rw [exec_mode h, modeAfter_effectOf x dot]
  · exact exec_next h ▸ CmdEffect.apply_ownership (enter he) (exit hx) s
  · exact exec_next h ▸ CmdEffect.apply_dirDATA (enter he) (exit hx) ((wordCount_effectOf i).trans reads) s
  · exact exec_next h ▸ CmdEffect.apply_levels (drivesLevels_effectOf quiet) s
  · rw [exec_respLen h, writes]
    rfl
  · have samples := exec_samples h
    rwa [reads, Nat.mul_zero, afterSamples_zero] at samples

/-- Settles O13: a command writes the buffer below twice the words it stores. -/
theorem memoryFrame : Obligations.MemoryFrame := by
  unfold Obligations.MemoryFrame
  intro i s t h a outside
  apply memRead_congr
  rw [exec_respBuf h, Memory.insertWords_lookup_other _ _ (.inr (by simpa using outside))]

/-- Settles O14: the laws of the memory at an offset of 11 bits. -/
theorem bufferReadsWhatWasWritten : Obligations.BufferReadsWhatWasWritten := by
  unfold Obligations.BufferReadsWhatWasWritten
  refine fun s a v => ⟨memRead_of_lookup (Memory.lookup_insert_same _ _ _), fun b hb => memRead_congr ?_,
    fun h => memRead_fault h, rfl⟩
  exact Memory.lookup_insert_other _ _ fun e => hb (BitVec.eq_of_toNat_eq e)

end Sys2Proof.Machine
end

section
/-! SUPPORT. The replies as bytes on the transport and on the console (R71, R170, R171, R190). -/

namespace Sys2Proof.Machine

theorem txBytes_append (es es' : List Event) : txBytes (es ++ es') = txBytes es ++ txBytes es' := by
  induction es with
  | nil => rfl
  | cons e es ih => cases e <;> simp [txBytes, ih]

@[simp] theorem txBytes_map_tx (bs : List Byte) : txBytes (bs.map .tx) = bs := by
  induction bs with
  | nil => rfl
  | cons b bs ih => rw [List.map_cons, txBytes, ih]

@[simp] theorem txBytes_map_out (bs : List Byte) : txBytes (bs.map .out) = [] := by
  induction bs with
  | nil => rfl
  | cons b bs ih => exact ih

@[simp] theorem outBytes_map_out (bs : List Byte) : outBytes (bs.map .out) = bs := by
  induction bs with
  | nil => rfl
  | cons b bs ih => rw [List.map_cons, outBytes, ih]

/-- Only the reply puts bytes on the transport (R172). -/
theorem txBytes_eventsOf (i : Instr) (s : State) : txBytes (eventsOf i s) = txBytes (replyOf i s) := by
  rw [eventsOf, txBytes_append, txBytes_eq_nil_of_isPin (isPin_events_effectOf i s), List.nil_append]

@[simp] theorem length_bulkBytes (n : Nat) (s : State) : (bulkBytes n s).length = 2 * n := by
  simp [bulkBytes, wordBytes, Nat.mul_comm]

/-- The reply of a Binary command is bytes on the transport (R171). -/
theorem replyOf_of_isBinary {i : Instr} (h : isBinary i) (s : State) : ∃ bs : List Byte, replyOf i s = bs.map .tx := by
  cases i with
  | binP | binQ | binZero | binI | binC | binL _ | binE | binA | binW | binB | binF => exact ⟨[0x00, 0x00], rfl⟩
  | binR _ | binV | binX => exact ⟨_, rfl⟩
  | binUnrecognized _ => exact ⟨[0x3F], rfl⟩
  | binCr | binLf | binSpace => exact ⟨[], rfl⟩
  | _ => cases h

/-- The reply of a recognized Binary command but `x` is one frame (R71, R153, R160, R167). -/
theorem replyOf_frame {i : Instr} (h : repliesWithFrame i) (s : State) :
    ∃ (len : Word16) (payload : List Byte), payload.length = len.toNat ∧
      replyOf i s = ([lo8 len, hi8 len] ++ payload).map .tx := by
  cases i with
  | binP | binQ | binZero | binI | binC | binL _ | binE | binA | binW | binB | binF => exact ⟨0, [], rfl, rfl⟩
  | binR count =>
    exact ⟨_, bulkBytes (clampCount count) s, (length_bulkBytes _ s).trans (respLen_toNat count).symm, rfl⟩
  | binV => exact ⟨2, Config.version, rfl, rfl⟩
  | _ => cases h

/-- No reply but the prompt is longer than a full DATA reply (R173). -/
theorem length_txBytes_replyOf {i : Instr} (h : i ≠ .binX) (s : State) : (txBytes (replyOf i s)).length ≤ 2 + 2048 := by
  cases i with
  | binP | binQ | binZero | binI | binC | binL _ | binE | binA | binW | binB | binF | binV | binUnrecognized _ =>
    exact Nat.le_of_ble_eq_true rfl
  | binR count =>
    have := clampCount_le count
    simp only [replyOf, txBytes_map_tx, List.length_append, length_bulkBytes, List.length_cons, List.length_nil]
    omega
  | binX => exact absurd rfl h
  | intR arg =>
    rw [replyOf, txBytes_map_out]
    exact Nat.zero_le _
  | _ => exact Nat.zero_le _

/-- No command has more pin events than a bulk read of `READ_MAX` words (R136, R227). -/
theorem length_events_effectOf (i : Instr) (s : State) : ((effectOf i).events s).length ≤ 149 * 1024 := by
  cases i with
  | binP | intP | icspEnterProgramMode => exact length_enterTrace.le.trans (by decide)
  | binQ | intQ | icspExitProgramMode => exact Nat.le_of_ble_eq_true rfl
  | binZero | intZero | icspResetAddress | binI | intI | icspIncAddress =>
    exact (length_cmdTrace _).le.trans (by decide)
  | binC | intC | icspLoadConfig | binL _ | icspLoadData _ | intL _ => exact (length_loadTrace _ _).le.trans (by decide)
  | binE | intE | icspEraseRow | binA | intA | icspEraseAll | binW | intW | icspBeginIntProg
  | binB | intB | icspBeginExtProg | binF | intF | icspEndExtProg =>
    exact (length_cmdTrace_wait _ _).le.trans (by decide)
  | icspReadWord => exact (length_readWordTrace (length_nextSamples 16 s)).le.trans (by decide)
  | binR _ | intR _ => exact (length_bulkTrace _ s).le.trans (Nat.mul_le_mul_left 149 (clampCount_le _))
  | binV | binX | binCr | binLf | binSpace | binUnrecognized _ | intDot => exact Nat.zero_le _

/-- A reply has no pin event (R172). -/
theorem filter_isPin_replyOf (i : Instr) (s : State) : (replyOf i s).filter Event.isPin = [] := by
  obtain ⟨bs, h | h⟩ := replyOf_bytes i s <;> simp [h, List.filter_eq_nil_iff, Event.isPin]

/-- The pin events of a command are those of its effect. -/
theorem filter_isPin_eventsOf (i : Instr) (s : State) :
    (eventsOf i s).filter Event.isPin = (effectOf i).events s := by
  rw [eventsOf, List.filter_append, filter_isPin_replyOf, List.append_nil]
  exact List.filter_eq_self.2 (isPin_events_effectOf i s)

end Sys2Proof.Machine
end

section
/-! PROOFS. The replies of Binary mode (R71, R167, R168, R171-R173, R227). -/

namespace Sys2Proof.Machine

/-- Settles O24: the reply is all there is to the command. -/
theorem versionReplyIsConstant : Obligations.VersionReplyIsConstant := by
  unfold Obligations.VersionReplyIsConstant
  exact exec_eq .binV

/-- Settles O25: a transition of `mode` is the effect, the prompt the reply. -/
theorem leaveBinaryEmitsPrompt : Obligations.LeaveBinaryEmitsPrompt := by
  unfold Obligations.LeaveBinaryEmitsPrompt
  exact exec_eq .binX

/-- Settles O28: the events of the effect are on the pins, the reply on the transport. -/
theorem repliesFollowPinEvents : Obligations.RepliesFollowPinEvents := by
  unfold Obligations.RepliesFollowPinEvents
  intro i s t binary h
  obtain ⟨reply, hr⟩ := replyOf_of_isBinary binary s
  exact ⟨(effectOf i).events s, reply, by rw [exec_trace h, eventsOf, hr, List.append_assoc], isPin_events_effectOf i s⟩

/-- Settles O29: the bytes are the reply's, which is one frame. -/
theorem everyReplyIsOneFrame : Obligations.EveryReplyIsOneFrame := by
  unfold Obligations.EveryReplyIsOneFrame
  intro i s frames
  obtain ⟨len, payload, hlen, hr⟩ := replyOf_frame frames s
  have h := exec_eq i s
  exact ⟨_, _, len, payload, h, exec_trace h, hlen, by rw [txBytes_eventsOf, hr, txBytes_map_tx]⟩

/-- Settles O30: the reply bytes are the reply's, the pin events the effect's. -/
theorem commandEventsAreBounded : Obligations.CommandEventsAreBounded := by
  unfold Obligations.CommandEventsAreBounded
  refine fun i s t h => ⟨_, exec_trace h, fun hx => ?_, ?_⟩
  · rw [txBytes_eventsOf]
    exact length_txBytes_replyOf hx s
  · rw [filter_isPin_eventsOf]
    exact length_events_effectOf i s

end Sys2Proof.Machine
end

section
/-! SUPPORT. What a bulk read leaves, once for Binary and Interactive `r` (R133, R160, R189). -/

namespace Sys2Proof.Machine

theorem byteAt_even (word : Nat → Word14) (i : Nat) : byteAt word (2 * i) = lo8 ((word i).setWidth 16) := by
  simp [byteAt]

theorem byteAt_odd (word : Nat → Word14) (i : Nat) : byteAt word (2 * i + 1) = hi8 ((word i).setWidth 16) := by
  have odd : (2 * i + 1) % 2 ≠ 0 := by omega
  have half : (2 * i + 1) / 2 = i := by omega
  rw [byteAt, if_neg odd, half]

/-- The two bytes of the `i`-th word after a bulk read, low byte first (R46). -/
theorem bulk_lookup_word {n i : Nat} (s : State) (h : i < n) :
    ((CmdEffect.readBulk n).apply s).respBuf.lookup (2 * i) = some (lo8 ((wordAt s i).setWidth 16)) ∧
    ((CmdEffect.readBulk n).apply s).respBuf.lookup (2 * i + 1) = some (hi8 ((wordAt s i).setWidth 16)) := by
  rw [← byteAt_even, ← byteAt_odd]
  exact ⟨insertWords_lookup_byteAt (wordAt s) s.respBuf (by omega),
    insertWords_lookup_byteAt (wordAt s) s.respBuf (by omega)⟩

/-- Behind its words a bulk read leaves the buffer alone. -/
theorem bulk_lookup_other {n a : Nat} (s : State) (h : 2 * n ≤ a) :
    ((CmdEffect.readBulk n).apply s).respBuf.lookup a = s.respBuf.lookup a :=
  Memory.insertWords_lookup_other _ _ (.inr (by simpa using h))

/-- A bulk read of any words leaves DATA an output, and CLOCK and DATA LOW (R106). -/
theorem bulk_pins {n : Nat} (h : n ≠ 0) (s : State) :
    ((CmdEffect.readBulk n).apply s).dirDATA = .out ∧ ((CmdEffect.readBulk n).apply s).lvlCLK = .low ∧
    ((CmdEffect.readBulk n).apply s).lvlDATA = .low := ⟨if_neg h, if_neg h, if_neg h⟩

end Sys2Proof.Machine
end

section
/-! SUPPORT. The listing of a written buffer and its line breaks (R190). -/

namespace Sys2Proof.Machine

/-- The word at an index as the listing reads it, from the buffer's bytes. -/
def bufferWord (m : Memory) (i : Nat) : Word16 := le16 ((m.lookup (2 * i)).getD 0) ((m.lookup (2 * i + 1)).getD 0)

theorem memRead_of_isSome {s : State} {a : Nat} (ha : a < 2048) (h : (s.respBuf.lookup a).isSome) :
    memRead (BitVec.ofNat 11 a) s = .ok ((s.respBuf.lookup a).getD 0) := by
  apply memRead_of_lookup
  obtain ⟨v, hv⟩ := Option.isSome_iff_exists.1 h
  rw [offset_toNat ha, hv, Option.getD_some]

theorem readBufWord_of_isSome {s : State} {i : Nat} (hi : i < 1024) (lo : (s.respBuf.lookup (2 * i)).isSome)
    (hi' : (s.respBuf.lookup (2 * i + 1)).isSome) : readBufWord i s = .ok (bufferWord s.respBuf i) := by
  rw [readBufWord, memRead_of_isSome (by omega) lo, ok_bind, memRead_of_isSome (by omega) hi', ok_bind]
  rfl

/-- No hex digit is a line feed. -/
theorem count_lf_hex4 (upper : Bool) (w : Word16) : (hex4 upper w).count 0x0A = 0 := by
  have digit : ∀ upper, ∀ d < 16, hexChar upper d ≠ 0x0A := by decide
  have some_digit (k : Nat) : hexChar upper (k % 16) ≠ 0x0A := digit upper _ (Nat.mod_lt _ (by decide))
  simp only [hex4, List.count_eq_zero, List.mem_cons, List.not_mem_nil, or_false, not_or]
  exact ⟨(some_digit _).symm, (some_digit _).symm, (some_digit _).symm, (some_digit _).symm⟩

/-- One line break for every 16 words begun (R190). -/
theorem count_lf_listingBytes {f : ListFormat} (nl : f.newline = [0x0A]) (sep : (0x0A : Byte) ∉ f.wordSep) (n : Nat)
    (word : Nat → Word16) : (listingBytes f n word).count 0x0A = (n + 15) / 16 := by
  have full : ((List.range n).flatMap fun i =>
      hex4 f.hexUpper (word i) ++ f.wordSep ++ if (i + 1) % 16 = 0 then f.newline else []).count 0x0A = n / 16 := by
    induction n with
    | zero => rfl
    | succ n ih =>
      rw [List.range_succ, List.flatMap_append, List.count_append, ih, List.flatMap_singleton, List.count_append,
        List.count_append, count_lf_hex4, List.count_eq_zero.2 sep, nl]
      split
      · simp only [List.count_singleton_self]
        omega
      · simp only [List.count_nil]
        omega
  rw [listingBytes, List.count_append, full, nl]
  split
  · simp only [List.count_singleton_self]
    omega
  · simp only [List.count_nil]
    omega

end Sys2Proof.Machine
end

section
/-! PROOFS. The two commands that read the target's memory (R160, R189, R190). -/

namespace Sys2Proof.Machine

/-- Settles O23: the bulk read of `min(count, 1024)` words, and then the DATA reply with their bytes. -/
theorem binaryReadRepliesWithTheWords : Obligations.BinaryReadRepliesWithTheWords := by
  unfold Obligations.BinaryReadRepliesWithTheWords
  intro count s n len
  have runs := exec_eq (.binR count) s
  refine ⟨_, runs, (exec_trace runs).trans (List.append_assoc _ _ _).symm, respLen_toNat count, length_bulkBytes n s,
    fun i hi => ?_, fun a ha => bulk_lookup_other s ha, rfl, rfl, fun hn => ?_, fun hn => bulk_pins hn s,
    rfl, rfl, rfl, rfl, rfl, rfl, rfl, rfl⟩
  · obtain ⟨low, high⟩ := bulk_lookup_word s hi
    exact ⟨low, high, Nat.le_of_lt_succ (hi8_word_lt _)⟩
  · exact ⟨if_pos hn, if_pos hn, if_pos hn⟩

/-- Interactive `r` of no words emits nothing (R190). -/
theorem eventsOf_intR_of_no_words {arg : Option Token}
    (h : clampCount (argValue Config.wideArg arg Config.rCountDefault) = 0) (s : State) :
    eventsOf (.intR arg) s = [] := by
  simp only [eventsOf, effectOf, CmdEffect.events, replyOf, h, bulkTrace, listingBytes]
  rfl

/-- Settles O33: the same bulk read, and then the listing of its words. -/
theorem interactiveReadListsTheWords : Obligations.InteractiveReadListsTheWords := by
  unfold Obligations.InteractiveReadListsTheWords
  intro arg s n
  have runs := exec_eq (.intR arg) s
  refine ⟨_, runs, (exec_trace runs).trans (List.append_assoc _ _ _).symm, respLen_toNat _,
    fun i hi => bulk_lookup_word s hi, fun a ha => bulk_lookup_other s ha, rfl, rfl, fun hn => ?_,
    fun hn => bulk_pins hn s, rfl, rfl, rfl, rfl, rfl, rfl, rfl, rfl⟩
  have none_read : clampCount (argValue Config.wideArg arg Config.rCountDefault) = 0 := hn
  refine ⟨if_pos hn, if_pos hn, if_pos hn, ?_⟩
  rw [exec_trace runs, eventsOf_intR_of_no_words none_read, List.append_nil]

/-- Settles O34: the words are read from the written buffer, and the breaks are `count_lf_listingBytes`. -/
theorem listingHasOneBreakPerLine : Obligations.ListingHasOneBreakPerLine := by
  unfold Obligations.ListingHasOneBreakPerLine
  intro f n s nl sep hn written
  have lists : listing f n s = .ok (out (listingBytes f n (bufferWord s.respBuf)) s) :=
    listing_ok fun i hi => readBufWord_of_isSome (by omega) (written _ (by omega)) (written _ (by omega))
  exact ⟨_, _, lists, rfl, by rw [outBytes_map_out, count_lf_listingBytes nl sep]⟩

end Sys2Proof.Machine
end

section
/-! SUPPORT. The grammar of an argument (R181): digits, and what a string of them parses to. -/

namespace Sys2Proof.Machine

/-- A decimal digit character (R181). -/
def IsDec (c : Byte) : Prop := 0x30 ≤ c.toNat ∧ c.toNat ≤ 0x39

/-- A hex digit character (R181). -/
def IsHex (c : Byte) : Prop :=
  (0x30 ≤ c.toNat ∧ c.toNat ≤ 0x39) ∨ (0x41 ≤ c.toNat ∧ c.toNat ≤ 0x46) ∨ (0x61 ≤ c.toNat ∧ c.toNat ≤ 0x66)

/-- The value of a digit character (R181). -/
def digitValue (c : Byte) : Nat :=
  if c.toNat ≤ 0x39 then c.toNat - 0x30 else if c.toNat ≤ 0x46 then c.toNat - 0x41 + 10 else c.toNat - 0x61 + 10

theorem decDigit_of_isDec {c : Byte} (h : IsDec c) : decDigit c = some (digitValue c) := by
  unfold IsDec at h
  rw [decDigit, if_pos h, digitValue, if_pos h.2]

theorem isDec_of_decDigit {c : Byte} (h : (decDigit c).isSome) : IsDec c := by
  unfold decDigit at h
  split at h
  · assumption
  · cases h

theorem hexDigit_of_isHex {c : Byte} (h : IsHex c) : hexDigit c = some (digitValue c) := by
  unfold hexDigit digitValue
  rcases h with h | h | h
  · rw [if_pos h, if_pos h.2]
  · rw [if_neg (by omega), if_neg (by omega), if_pos h, if_neg (by omega), if_pos h.2]
  · rw [if_neg (by omega), if_pos h, if_neg (by omega), if_neg (by omega)]

theorem isHex_of_hexDigit {c : Byte} (h : (hexDigit c).isSome) : IsHex c := by
  unfold hexDigit at h
  split at h
  · exact .inl ‹_›
  · split at h
    · exact .inr (.inr ‹_›)
    · split at h
      · exact .inr (.inl ‹_›)
      · cases h

/-- A string of digits has its value in the base, most significant digit first. -/
theorem parseDigits_of_digits {base : Nat} {digit : Byte → Option Nat} {t : Token}
    (h : ∀ c ∈ t, digit c = some (digitValue c)) (acc : Nat) :
    parseDigits base digit acc t = some (t.foldl (fun n c => base * n + digitValue c) acc) := by
  induction t generalizing acc with
  | nil => rfl
  | cons c cs ih =>
    obtain ⟨hc, hcs⟩ := List.forall_mem_cons.1 h
    rw [parseDigits, hc, List.foldl_cons, Nat.mul_comm base]
    exact ih hcs _

/-- A string that parses is digits throughout. -/
theorem digits_of_parseDigits {base : Nat} {digit : Byte → Option Nat} {t : Token} {acc : Nat}
    (h : (parseDigits base digit acc t).isSome) : ∀ c ∈ t, (digit c).isSome := by
  induction t generalizing acc with
  | nil => exact List.forall_mem_nil _
  | cons c cs ih =>
    rw [parseDigits] at h
    cases hc : digit c with
    | none =>
      rw [hc] at h
      cases h
    | some d =>
      rw [hc] at h
      exact List.forall_mem_cons.2 ⟨by rw [hc]; rfl, ih h⟩

/-- `0x` and at least one character is read in base 16 (R181). -/
theorem parseArg_hex {ds : Token} (h : ds ≠ []) : parseArg (0x30 :: 0x78 :: ds) = parseDigits 16 hexDigit 0 ds :=
  if_neg h

/-- Anything else but the empty string is read in base 10. -/
theorem parseArg_dec {t : Token} (h : t ≠ []) (not_hexForm : ∀ ds, t ≠ 0x30 :: 0x78 :: ds) :
    parseArg t = parseDigits 10 decDigit 0 t := by
  unfold parseArg
  split
  · exact absurd rfl h
  · exact absurd rfl (not_hexForm _)
  · rfl

/-- The `x` after the `0` is no decimal digit, so the two forms are apart. -/
theorem ne_hexForm_of_isDec {t : Token} (h : ∀ c ∈ t, IsDec c) (ds : Token) : t ≠ 0x30 :: 0x78 :: ds := by
  rintro rfl
  have x : IsDec 0x78 := h 0x78 (by simp)
  exact absurd x.2 (by decide)

theorem parseArg_of_dec {t : Token} (ht : t ≠ []) (h : ∀ c ∈ t, IsDec c) :
    parseArg t = some (t.foldl (fun n c => 10 * n + digitValue c) 0) := by
  rw [parseArg_dec ht (ne_hexForm_of_isDec h), parseDigits_of_digits fun c hc => decDigit_of_isDec (h c hc)]

theorem parseArg_of_hex {ds : Token} (hds : ds ≠ []) (h : ∀ c ∈ ds, IsHex c) :
    parseArg (0x30 :: 0x78 :: ds) = some (ds.foldl (fun n c => 16 * n + digitValue c) 0) := by
  rw [parseArg_hex hds, parseDigits_of_digits fun c hc => hexDigit_of_isHex (h c hc)]

/-- Nothing parses but the two forms (R181). -/
theorem forms_of_parseArg {t : Token} (h : (parseArg t).isSome) :
    (t ≠ [] ∧ ∀ c ∈ t, IsDec c) ∨ ∃ ds, t = 0x30 :: 0x78 :: ds ∧ ds ≠ [] ∧ ∀ c ∈ ds, IsHex c := by
  by_cases empty : t = []
  · subst empty
    cases h
  by_cases hex : ∃ ds, t = 0x30 :: 0x78 :: ds
  · obtain ⟨ds, rfl⟩ := hex
    by_cases bare : ds = []
    · subst bare
      cases h
    · rw [parseArg_hex bare] at h
      exact .inr ⟨ds, rfl, bare, fun c hc => isHex_of_hexDigit (digits_of_parseDigits h c hc)⟩
  · rw [parseArg_dec empty fun ds e => hex ⟨ds, e⟩] at h
    exact .inl ⟨empty, fun c hc => isDec_of_decDigit (digits_of_parseDigits h c hc)⟩

/-- The characters that `hexArg` and the listing write are the digits that are read (R181, R190). -/
theorem hexDigit_hexChar_mod (k : Nat) : hexDigit (hexChar false (k % 16)) = some (k % 16) := by
  have digit : ∀ d < 16, hexDigit (hexChar false d) = some d := by decide
  exact digit _ (Nat.mod_lt _ (by decide))

/-- An argument written in four hex digits parses to its value. -/
theorem parseArg_hexArg (v : Word16) : parseArg (hexArg v) = some v.toNat := by
  have written : hexArg v = 0x30 :: 0x78 :: hex4 false v := rfl
  have bound := v.isLt
  rw [written, parseArg_hex (by simp [hex4])]
  simp only [hex4, parseDigits, hexDigit_hexChar_mod, Option.some.injEq]
  omega

/-- A value that 16 bits do not hold counts as no argument where `WIDE_ARG` says so (R183). -/
theorem argValue_useDefault {arg : Option Token} {n : Nat} (h : arg.bind parseArg = some n) (hn : 2 ^ 16 ≤ n)
    (d : Word16) : argValue .useDefault arg d = d := by
  rw [argValue, h]
  exact if_neg (Nat.not_lt.2 hn)

end Sys2Proof.Machine
end

section
/-! PROOFS. The argument of Interactive `r` and `l` (R181-R183). -/

namespace Sys2Proof.Machine

/-- Settles O37: what parses is `forms_of_parseArg`, and to what is `parseArg_of_dec` and `parseArg_of_hex`. -/
theorem argumentGrammar : Obligations.ArgumentGrammar := by
  unfold Obligations.ArgumentGrammar
  intro dec hex value
  refine ⟨fun t => ⟨forms_of_parseArg, ?_⟩, fun t => parseArg_of_dec, fun ds => parseArg_of_hex, parseArg_hexArg⟩
  rintro (⟨ht, digits⟩ | ⟨ds, rfl, hds, digits⟩)
  · rw [parseArg_of_dec ht digits]
    rfl
  · rw [parseArg_of_hex hds digits]
    rfl

theorem finish_eq_next {x : Except Fault State} {t : State} (h : x = .ok t) : finish x = .next t := by
  rw [h, finish_ok]

/-- Settles O38: `exec` runs both commands at `Config.wideArg`, and at the default a value counts mod 2^16. -/
theorem wideArgumentsByParameter : Obligations.WideArgumentsByParameter := by
  unfold Obligations.WideArgumentsByParameter
  refine ⟨rfl, fun arg s => ⟨⟨_, interactiveRead_ok _ _ arg s, finish_eq_next (interactiveRead_ok _ _ arg s)⟩,
    _, interactiveLoad_ok _ arg s, finish_eq_next (interactiveLoad_ok _ arg s)⟩, fun t n d h => ⟨fun hn wide => ?_,
    fun hn => ⟨?_, argValue_useDefault (arg := some t) h hn d⟩, fun s => ⟨⟨_, loadData_ok _ s, ?_⟩, fun f => ?_⟩⟩⟩
  · rw [argValue_of_parse_lt (arg := some t) h hn, BitVec.toNat_ofNat, Nat.mod_eq_of_lt hn]
  · exact (congrArg BitVec.toNat (argValue_default h d)).trans (BitVec.toNat_ofNat n 16)
  · rw [interactiveLoad, argValue_default h]
    exact loadData_ok _ s
  · have count : clampCount (BitVec.ofNat 16 n) = min (n % 2 ^ 16) 1024 := by rw [clampCount, BitVec.toNat_ofNat]
    have reads := interactiveRead_ok Config.wideArgDefault f (some t) s
    rw [argValue_default h, count] at reads
    exact ⟨_, _, reads, toNat_two_mul_of_le (Nat.min_le_right _ _), rfl⟩

end Sys2Proof.Machine
end

section
/-! PROOFS. The Interactive step by its event (R180, R198), and the holds (R151, R204). -/

namespace Sys2Proof.Machine

/-- An event whose name is in no row of the table does not decode (R198). -/
theorem decodeEvent_of_unknown {e : CmdEvent} (h : ∀ row ∈ eventRows e.arg, e.name ≠ [row.1]) :
    decodeEvent e = .error (.unknownName e.name) := by
  unfold decodeEvent
  split
  · rename_i c hn
    have no_row : (eventRows e.arg).lookup c = none :=
      List.lookup_eq_none_iff.2 fun row hrow => bne_iff_ne.2 fun eq => h row hrow (by rw [hn, eq])
    rw [no_row, hn]
  · rfl

/-- Settles O42: the thirteen names are the rows of the event table; the step runs what the event decodes to. -/
theorem stepRunsTheDecodedEvent : Obligations.StepRunsTheDecodedEvent := by
  unfold Obligations.StepRunsTheDecodedEvent
  intro names
  have unknown (e : CmdEvent) (h : e.name ∉ names) : decodeEvent e = .error (.unknownName e.name) := by
    refine decodeEvent_of_unknown fun row hrow hn => h (hn ▸ ?_)
    exact List.mem_map_of_mem (f := fun row : Byte × Instr => [row.1]) hrow
  have not_decoded {s : State} {e : CmdEvent} {es : List CmdEvent} (hm : s.mode = .interactive) (hq : s.cmd = e :: es)
      {err : DecodeError} (h : decodeEvent e = .error err) : step s = .next { s with cmd := es } :=
    step_of_consumed ((fetch_of_event hm hq).trans (by rw [takeEvent, h]))
  exact ⟨fun arg => rfl, unknown, fun s e es hm hq =>
    ⟨fun i h => step_of_run ((fetch_of_event hm hq).trans (by rw [takeEvent, h])), fun err h => not_decoded hm hq h,
      fun h => not_decoded hm hq (unknown e h)⟩⟩

theorem atRest_or_held_iff {s : State} : s.atRest ∨ s.held ↔ s.mode = .binary ∧ s.rx = [] := by
  simp only [State.atRest, State.held]
  tauto

/-- Settles O43: a hold is the empty port that `mode` names; its agent fills it, and no other agent touches it. -/
theorem holdsAreLiftedByTheirAgent : Obligations.HoldsAreLiftedByTheirAgent := by
  unfold Obligations.HoldsAreLiftedByTheirAgent
  refine ⟨fun s h => step_of_hold (fetch_of_hasNoStep h), fun s b h hold => ?_, fun s e h hold => ?_,
    fun s e h => .inr h, fun s bs h => .inl h, fun s bs h => h⟩
  · obtain ⟨binary, -⟩ := atRest_or_held_iff.1 h
    rcases hasNoStep_iff.1 hold with ⟨interactive, -⟩ | ⟨-, empty⟩
    · cases binary.symm.trans interactive
    · simp [hostSends] at empty
  · obtain ⟨interactive, -⟩ := h
    rcases hasNoStep_iff.1 hold with ⟨-, empty⟩ | ⟨binary, -⟩
    · simp [consoleDelivers] at empty
    · cases interactive.symm.trans binary

end Sys2Proof.Machine
end
